-- ==== Sys2Proof/Word.lean ====
section
/-!
DEFINITION. The word types of the block: the byte of both arenas and of a page-table entry
(R50, R82), and the two words of the command interface (R92, R96).
-/

namespace Sys2Proof

/-- One byte: a cell of an arena, a page-table entry, a virtual address (R80). -/
abbrev Byte := BitVec 8

/-- One command word (R92). It is transferred whole and never stored in an arena (R53). -/
abbrev CommandWord := BitVec 32

/-- One response word (R96). -/
abbrev ResponseWord := BitVec 16

end Sys2Proof
end

