-- ==== Sys2Proof/Syntax.lean ====
section
/-!
DEFINITION. The five host commands, one constructor for each row of spec/opcode_table.json
(R95, R100). Sizes, process ids and arena addresses are numbers; a virtual address is split by bit
fields (R81) and a data byte is a byte, so those two are bit vectors.
-/

namespace Sys2Proof

/-- A host command (R93, R100). -/
inductive Instr where
  /-- `INIT psize, ssize`: the two arena sizes in bytes (R252). -/
  | init (psize ssize : Nat)
  /-- `BIND pid` (R254). -/
  | bind (pid : Nat)
  /-- `FAULT pid, va` (R256). -/
  | fault (pid : Nat) (va : Byte)
  /-- `PRD addr`: read one byte of the physical arena (R260). -/
  | prd (addr : Nat)
  /-- `PWR addr, data`: write one byte of the physical arena (R261). -/
  | pwr (addr : Nat) (data : Byte)
deriving DecidableEq, Repr

end Sys2Proof
end

