-- ==== Sys2Proof/WellFormed.lean ====
section
/-!
DEFINITION. When a command can be encoded: each numeric operand fits the field that R93 gives it.
-/

namespace Sys2Proof

/-- A byte count of INIT fits its 12-bit field: 0 .. 4095 (R93). -/
def sizeFits (n : Nat) : Bool := decide (n < 4096)

/-- A process id fits the 8-bit field PID (R93). -/
def pidFits (pid : Nat) : Bool := decide (pid < 256)

/-- An arena address fits the 8-bit field ADDR (R93). -/
def addrFits (addr : Nat) : Bool := decide (addr < 256)

/-- Every operand fits its field (R93). -/
def Instr.wellFormed : Instr → Bool
  | .init psize ssize => sizeFits psize && sizeFits ssize
  | .bind pid => pidFits pid
  | .fault pid _ => pidFits pid
  | .prd addr => addrFits addr
  | .pwr addr _ => addrFits addr

end Sys2Proof
end

