-- ==== Sys2Proof/Decode.lean ====
section
/-!
DEFINITION. Command words to commands and back (R92 to R95, R98, R99). Decoding is total on the
32-bit words and rejects by name; the encoder is written from the same table, R93.
-/

namespace Sys2Proof

/-- Why a word is no command (R98). The block answers ERR_ILLEGAL to either (R263). -/
inductive Reject where
  /-- OP is 0x0 or 0x6 .. 0xF. -/
  | reservedOpcode
  /-- OP is 0x1 .. 0x5 and a reserved bit of its format is 1. -/
  | reservedBits
deriving DecidableEq, Repr

/-- OP, bits 31:28 (R92). -/
def opField (w : CommandWord) : BitVec 4 := w.extractLsb' 28 4

/-- PSIZE, bits 23:12 (R93). -/
def psizeField (w : CommandWord) : BitVec 12 := w.extractLsb' 12 12

/-- SSIZE, bits 11:0 (R93). -/
def ssizeField (w : CommandWord) : BitVec 12 := w.extractLsb' 0 12

/-- PID, bits 23:16 (R93). -/
def pidField (w : CommandWord) : BitVec 8 := w.extractLsb' 16 8

/-- ADDR, bits 15:8 (R93). -/
def addrField (w : CommandWord) : BitVec 8 := w.extractLsb' 8 8

/-- VA and DATA, bits 7:0 (R93). -/
def lowField (w : CommandWord) : BitVec 8 := w.extractLsb' 0 8

/-- The reserved bits of each format, as a mask: RSV0 and every bit that R93 writes as 0. -/
def reservedMask (op : BitVec 4) : CommandWord :=
  if op = 0x1#4 then 0x0F000000#32
  else if op = 0x2#4 then 0x0F00FFFF#32
  else if op = 0x3#4 then 0x0F00FF00#32
  else if op = 0x4#4 then 0x0FFF00FF#32
  else if op = 0x5#4 then 0x0FFF0000#32
  else 0xFFFFFFFF#32

/-- The command that a legal word with this OP stands for: its fields as they stand (R94). -/
def commandOf (w : CommandWord) : Option Instr :=
  if opField w = 0x1#4 then some (.init (psizeField w).toNat (ssizeField w).toNat)
  else if opField w = 0x2#4 then some (.bind (pidField w).toNat)
  else if opField w = 0x3#4 then some (.fault (pidField w).toNat (lowField w))
  else if opField w = 0x4#4 then some (.prd (addrField w).toNat)
  else if opField w = 0x5#4 then some (.pwr (addrField w).toNat (lowField w))
  else none

/-- Decoding (R98, R250): the opcode, then the reserved bits, then the fields. -/
def decode (w : CommandWord) : Except Reject Instr :=
  match commandOf w with
  | none => .error .reservedOpcode
  | some i => if w &&& reservedMask (opField w) = 0#32 then .ok i else .error .reservedBits

/-- The opcode of a command (R95). -/
def opcodeOf : Instr → BitVec 4
  | .init _ _ => 0x1#4
  | .bind _ => 0x2#4
  | .fault _ _ => 0x3#4
  | .prd _ => 0x4#4
  | .pwr _ _ => 0x5#4

/-- Bits 23:0 of a command's word (R93). -/
def operandBits : Instr → BitVec 24
  | .init psize ssize => BitVec.ofNat 12 psize ++ BitVec.ofNat 12 ssize
  | .bind pid => BitVec.ofNat 8 pid ++ 0#16
  | .fault pid va => BitVec.ofNat 8 pid ++ 0#8 ++ va
  | .prd addr => 0#8 ++ BitVec.ofNat 8 addr ++ 0#8
  | .pwr addr data => 0#8 ++ BitVec.ofNat 8 addr ++ data

/-- The command word of a well-formed command: OP, RSV0 = 0000, operands (R92). -/
def encode (i : Instr) : CommandWord := opcodeOf i ++ 0#4 ++ operandBits i

/-- A word of `nbits` bits as spec/opcode_table.json numbers it, as a command word: the bits above
`nbits` are 0, and a command has no bit above 31 (R99; log entry 13). -/
def tableWord (nbits w : Nat) : CommandWord := BitVec.ofNat 32 (w % 2 ^ nbits)

/-- What the decoder reads from a word of the opcode table; a command is never longer than 32
bits (R99). -/
def decodeTableWord (nbits w : Nat) : Option Instr :=
  if nbits ≤ 32 then (decode (tableWord nbits w)).toOption else none

end Sys2Proof
end

