-- ==== Sys2Proof/Config.lean ====
section
/-!
DEFINITION. What is fixed for the block: the constants of R6, the size limits of R7 and R253, the
default of the parameter NPID (R8), and the free values of `draw()` (R11).
-/

namespace Sys2Proof.Config

/-- FRAME_BYTES (R6): bytes in a frame and in a swap slot. -/
@[reducible, simp] def frameBytes : Nat := 4

/-- ENTRIES_PER_TABLE (R6): one-byte entries in a table frame. -/
@[reducible, simp] def entriesPerTable : Nat := 4

/-- The largest NFRAMES that INIT accepts (R7, R253): the FRAME field of an entry has 6 bits. -/
@[reducible, simp] def maxFrames : Nat := 64

/-- The largest NSLOTS that INIT accepts (R7, R253): the SLOT field of an entry has 7 bits. -/
@[reducible, simp] def maxSlots : Nat := 128

/-- The default of the parameter NPID (R8). -/
@[reducible, simp] def defaultNpid : Nat := 256

/-- The upper bound of the parameter NPID (R8). -/
@[reducible, simp] def maxNpid : Nat := 256

/-- The free values of `draw()` (R11): "an unconstrained 8-bit value chosen by the environment,
under no law". The n-th draw of a run is `draw n`; nothing in Lean can evaluate it (log entry 6). -/
opaque draw : Nat → Byte

end Sys2Proof.Config
end

