-- ==== Sys2Proof/Machine/State.lean ====
section
/-!
DEFINITION. Everything the spec gives the block to hold (R22 to R33, R36), the reasons a step can
stop, and the state at power-on (R310). All of it is plain data; counts are numbers, and bit vectors
are kept for bytes and words.
-/

namespace Sys2Proof.Machine

/-- The status codes of a response (R97). -/
inductive Status where
  /-- success -/
  | ok
  /-- the eviction queue is empty (R281) -/
  | noVictim
  /-- no swap slot is free (R282) -/
  | noSwap
  /-- the pid is at least NPID (R283) -/
  | badPid
  /-- FAULT for a pid with no binding (R284) -/
  | notBound
  /-- a command before INIT (R285) -/
  | notInit
  /-- INIT sizes beyond the fields of an entry (R286) -/
  | badConfig
  /-- a reserved opcode or a nonzero reserved bit (R287) -/
  | illegal
  /-- an entry that no block operation could have written (R288) -/
  | corrupt
  /-- PRD or PWR outside the arena (R289) -/
  | badAddr
deriving DecidableEq, Repr

/-- The levels of the walk (R15): 0, 1 and 2. -/
inductive Level where
  | directory
  | middleDirectory
  | table
deriving DecidableEq, Repr

/-- The three forms of a page-table entry (R82, R170). -/
inductive PteForm where
  /-- the byte 0x00 (R85) -/
  | unmapped
  /-- mapped to a physical frame, 6 bits (R83) -/
  | mapped (frame : BitVec 6)
  /-- swapped to a slot, 7 bits (R84) -/
  | swapped (slot : BitVec 7)
deriving DecidableEq, Repr

/-- Why the machine stops. From a well-shaped state no command reaches any of them. -/
inductive Fault where
  /-- RELEASE_FREE_FRAME (R296): raised by FRELEASE for frame 0, a frame that does not exist or a
  free frame (R123). Safe: the spec takes the assert, where a no-op could hide a broken invariant. -/
  | releaseFreeFrame
  /-- RELEASE_FREE_SLOT (R296): raised by SRELEASE likewise (R125). Safe. -/
  | releaseFreeSlot
  /-- RETRY_FAILED (R296): raised by ALLOC_EVICT if the retry after an eviction finds no frame
  (R192). Safe; R194 says it cannot happen. -/
  | retryFailed
  /-- The model's own (log entry 4): an access to an arena byte that does not exist or holds no
  value, raised by the accessors of PHYS and SWAP. The notation PHYS[a] is defined for
  a < 4*NFRAMES only (R11). Safe: the machine stops where the spec gives no byte. -/
  | outsideArena
deriving DecidableEq, Repr

/-- Why an instruction has no meaning. -/
inductive Refusal where
  /-- Raised by `exec` for an instruction not modelled yet; every command of this block is
  modelled, so no arm answers it. Safe. -/
  | notModelled (mnemonic : String)
deriving DecidableEq, Repr

/-- An arena: its existing bytes, each with its address, addresses rising. An address that is not
listed does not exist or holds no value (log entry 4). -/
abbrev Memory := List Host.Cell

/-- An allocator bitmap: the bit of index i is entry i - 1, since index 0 has no bit (R29, R30).
A bit that is true says that the index is allocated. -/
abbrev Bitmap := List Bool

/-- The two registers of one process id (R22). The value 0 means "no binding". -/
structure ProcRegs where
  /-- PDBR[p]: the frame of the page-directory root. -/
  pdbr : Byte
  /-- PCB[p]: the frame that hosts the control block. -/
  pcb : Byte
deriving DecidableEq, Repr

/-- The whole state of one instance of the block, and of its command interface. -/
structure State where
  /-- READY (R25). -/
  ready : Bool
  /-- NFRAMES (R26). -/
  nframes : Nat
  /-- NSLOTS (R26). -/
  nslots : Nat
  /-- PHYS (R27): addresses 0 .. 4*NFRAMES-1. -/
  phys : Memory
  /-- SWAP (R28): offsets 0 .. 4*NSLOTS-1. -/
  swap : Memory
  /-- FUSED (R29): frames 1 .. NFRAMES-1. -/
  fused : Bitmap
  /-- SUSED (R30): slots 1 .. NSLOTS-1. -/
  sused : Bitmap
  /-- EQ (R31): references to leaf entries, oldest first. -/
  queue : List Byte
  /-- PDBR[p] and PCB[p] for p in 0 .. NPID-1 (R22). -/
  procs : List ProcRegs
  /-- FAULTED (R33): the spec's own model bookkeeping. -/
  faulted : Option Fault
  /-- NPID (R8): the parameter of this instance; no step writes it (log entry 5). -/
  npid : Nat
  /-- The command words the host has still to issue, the next one first (R20, R24; log entry 1). -/
  commands : List CommandWord
  /-- The response of the last command, while the host has it (R96; log entry 8). -/
  response : Option ResponseWord
  /-- The model's own: how many values `draw()` has given so far (R11; log entry 6). -/
  draws : Nat
deriving DecidableEq, Repr

/-- Power-on (R36, R310): READY is 0 and FAULTED is none. Nothing else holds a value there; the
model's zeros, empty sequences and unlisted arenas are log entries 1, 3, 4, 6 and 8, and NPID has
its default (log entry 5). -/
def State.reset : State where
  ready := false
  nframes := 0
  nslots := 0
  phys := []
  swap := []
  fused := []
  sused := []
  queue := []
  procs := List.replicate Config.defaultNpid { pdbr := 0#8, pcb := 0#8 }
  faulted := none
  npid := Config.defaultNpid
  commands := []
  response := none
  draws := 0

/-- The outcome of a command. -/
abbrev Answer := Host.Outcome State Fault Refusal

end Sys2Proof.Machine
end

