-- ==== Sys2Proof/Machine/Flags.lean ====
section
/-!
DEFINITION. The block's one status flag, READY, and the status codes of the response word (R25,
R96, R97). The block has no condition codes (R25).
-/

namespace Sys2Proof.Machine

/-- STATUS, bits 15:12 of a response (R97). -/
def Status.code : Status → BitVec 4
  | .ok => 0x0#4
  | .noVictim => 0x1#4
  | .noSwap => 0x2#4
  | .badPid => 0x3#4
  | .notBound => 0x4#4
  | .notInit => 0x5#4
  | .badConfig => 0x6#4
  | .illegal => 0x7#4
  | .corrupt => 0x8#4
  | .badAddr => 0x9#4

/-- The number of a level (R15), as INFO carries it (R96). -/
def Level.code : Level → BitVec 4
  | .directory => 0x0#4
  | .middleDirectory => 0x1#4
  | .table => 0x2#4

/-- The response word: STATUS, INFO, RESULT (R96). -/
def responseWord (st : Status) (info : BitVec 4) (result : Byte) : ResponseWord :=
  st.code ++ info ++ result

/-- The READY check of every command but INIT (R251). -/
def State.isReady (s : State) : Bool := s.ready

end Sys2Proof.Machine
end

