-- ==== Sys2Proof/Machine/Operands.lean ====
section
/-!
DEFINITION. How operands and entry bytes are taken apart: the virtual address (R81, R160), the
location of an entry (R163), the sizes of INIT (R94), and the codec of a page-table entry (R170 to
R172).
-/

namespace Sys2Proof.Machine

/-- pd_idx: va[7:6] (R160). -/
def pdIdx (va : Byte) : BitVec 2 := va.extractLsb' 6 2

/-- pmd_idx: va[5:4] (R160). -/
def pmdIdx (va : Byte) : BitVec 2 := va.extractLsb' 4 2

/-- pt_idx: va[3:2] (R160). -/
def ptIdx (va : Byte) : BitVec 2 := va.extractLsb' 2 2

/-- DECOMPOSE (R160), as the walk uses it: each level with its index, in the order of the walk. The
offset va[1:0] is read by no rule (R161). -/
def decompose (va : Byte) : List (Level × BitVec 2) :=
  [(.directory, pdIdx va), (.middleDirectory, pmdIdx va), (.table, ptIdx va)]

/-- loc = 4*t + idx: where entry idx of table frame t is (R88, R163). -/
def entryAddr (t : Nat) (idx : BitVec 2) : Nat := Config.entriesPerTable * t + idx.toNat

/-- The first byte of a frame (R27) or of a slot (R28). -/
def frameBase (f : Nat) : Nat := Config.frameBytes * f

/-- A size in bytes "rounded down to whole 4-byte frames" (R7, R94): PSIZE >> 2. -/
def wholeFrames (size : Nat) : Nat := size / Config.frameBytes

/-- CLASSIFY (R86, R170): total over the 256 bytes; bit 1 of a mapped entry is ignored (R174). -/
def classify (b : Byte) : PteForm :=
  if b = 0x00#8 then .unmapped
  else if b.getLsbD 0 then .mapped (b.extractLsb' 2 6)
  else .swapped (b.extractLsb' 1 7)

/-- ENC_MAPPED (R171): ((f << 2) | 0x01) & 0xFF, so bit 1 is 0. -/
def encMapped (f : Nat) : Byte := BitVec.ofNat 8 (f <<< 2 ||| 1)

/-- ENC_SWAPPED (R172): (s << 1) & 0xFF, so bit 0 is 0. -/
def encSwapped (slot : Nat) : Byte := BitVec.ofNat 8 (slot <<< 1)

end Sys2Proof.Machine
end

