-- ==== Sys2Proof/Machine/Ops.lean ====
section
/-!
DEFINITION. The named operations over the state: the two arenas, the process table, the two
allocators (R120 to R127), the eviction queue (R140 to R142), the draws (R11), answering a command
(R96, R280) and raising a model fault (R296).
-/

namespace Sys2Proof.Machine

/-! ### Results of an internal operation -/

/-- What an internal operation answers (R13): `(OK, x)`, `(err, _)`, or a raised model fault. Each
carries the state it leaves, since a failure keeps what was already done (R60). -/
inductive Result (α : Type) where
  | ok (a : α) (s : State)
  | err (e : Status) (s : State)
  | raised (r : Fault) (s : State)
deriving DecidableEq, Repr

/-- Sequencing (R12): an error or a raised fault ends the operation. -/
def Result.bind {α β : Type} (x : Result α) (f : α → State → Result β) : Result β :=
  match x with
  | .ok a s => f a s
  | .err e s => .err e s
  | .raised r s => .raised r s

/-! ### Answering and faulting -/

/-- `respond(status, info, result)` (R11, R96): every failure is such a response, not a trap, and
saves nothing else (R280, R293). -/
def State.respond (s : State) (st : Status) (info : BitVec 4) (result : Byte) : State :=
  { s with response := some (responseWord st info result) }

/-- The answer of a command that fails outside a walk: INFO and RESULT are 0 (R96). -/
def failWith (st : Status) (s : State) : Answer := .next (s.respond st 0x0#4 0x00#8)

/-- The state in which FAULTED holds a reason (R296). -/
def State.markFaulted (s : State) (r : Fault) : State := { s with faulted := some r }

/-- `raise Fault(reason)` (R11, R296). -/
def raise {α : Type} (r : Fault) (s : State) : Result α := .raised r (s.markFaulted r)

/-- How a command ends whose result is a byte: OK with that byte, an error with INFO 0, or the
model's fault outcome, which gives no response (R96, R296; log entry 7). -/
def Result.answer (x : Result Byte) : Answer :=
  match x with
  | .ok b s => .next (s.respond .ok 0x0#4 b)
  | .err e s => failWith e s
  | .raised r _ => .fault r

/-- The READY check (R251): every command but INIT answers ERR_NOT_INIT before INIT. -/
def whenReady (s : State) (run : State → Answer) : Answer :=
  if s.isReady then run s else failWith .notInit s

/-! ### Memory -/

/-- The byte at an address, if it exists. -/
def Memory.read (m : Memory) (a : Nat) : Option Byte :=
  match m with
  | [] => none
  | c :: rest => if c.1 = a then some c.2 else Memory.read rest a

/-- The arena with the byte at an existing address replaced; a write makes no byte exist. -/
def Memory.write (m : Memory) (a : Nat) (v : Byte) : Memory :=
  m.map fun c => if c.1 = a then (a, v) else c

/-- An arena of `n` bytes, each 0x00 (R252). -/
def Memory.zeroed (n : Nat) : Memory := (List.range n).map fun a => (a, 0x00#8)

/-- The canonical form: addresses strictly rising. An unlisted address reads as no value, so no
entry can equal what an unlisted address reads as. -/
abbrev Memory.wf (m : Memory) : Prop := (m.map Prod.fst).Pairwise (· < ·)

/-- PHYS with one existing byte replaced. -/
def State.putPhys (s : State) (a : Nat) (v : Byte) : State := { s with phys := s.phys.write a v }

/-- SWAP with one existing byte replaced. -/
def State.putSwap (s : State) (a : Nat) (v : Byte) : State := { s with swap := s.swap.write a v }

/-- `PHYS[a]` (R11). A read has no side effect (R55). -/
def readPhys (a : Nat) (s : State) : Result Byte :=
  match s.phys.read a with
  | some b => .ok b s
  | none => raise .outsideArena s

/-- `PHYS[a] <- v` (R11). -/
def writePhys (a : Nat) (v : Byte) (s : State) : Result Unit :=
  match s.phys.read a with
  | some _ => .ok () (s.putPhys a v)
  | none => raise .outsideArena s

/-- `SWAP[a] <- v` (R11). No operation reads SWAP (R52). -/
def writeSwap (a : Nat) (v : Byte) (s : State) : Result Unit :=
  match s.swap.read a with
  | some _ => .ok () (s.putSwap a v)
  | none => raise .outsideArena s

/-- Successive bytes of PHYS from address `a`, in address order. -/
def writeBytes : Nat → List Byte → State → Result Unit
  | _, [], s => .ok () s
  | a, b :: rest, s => (writePhys a b s).bind fun _ s => writeBytes (a + 1) rest s

/-- ZERO_FRAME (R191): a freshly allocated frame becomes an empty table. -/
def zeroFrame (t : Nat) (s : State) : Result Unit :=
  writeBytes (frameBase t) [0x00#8, 0x00#8, 0x00#8, 0x00#8] s

/-- Four draws have been made. -/
def State.afterDraws (s : State) : State := { s with draws := s.draws + 4 }

/-- The next four values of `draw()` (R11). -/
def State.drawnBytes (s : State) : List Byte :=
  [Config.draw s.draws, Config.draw (s.draws + 1), Config.draw (s.draws + 2),
    Config.draw (s.draws + 3)]

/-- `for i in 0 .. 3: PHYS[4*g + i] <- draw()` (R204, R210): the bytes of a data frame are any
values. -/
def drawFrame (g : Nat) (s : State) : Result Unit :=
  writeBytes (frameBase g) s.drawnBytes s.afterDraws

/-! ### Process table -/

/-- The registers of pid p. The table has NPID entries (R22); a pid beyond them, which every command
refuses first (R255), has no register and reads as "no binding" (log entry 9). -/
def State.proc (s : State) (p : Nat) : ProcRegs := s.procs.getD p { pdbr := 0#8, pcb := 0#8 }

/-- PDBR[p] (R22). -/
def State.pdbr (s : State) (p : Nat) : Byte := (s.proc p).pdbr

/-- PCB[p] (R22). -/
def State.pcb (s : State) (p : Nat) : Byte := (s.proc p).pcb

/-- `PCB[p] <- control; PDBR[p] <- root` (R231). -/
def State.putProc (s : State) (p control root : Nat) : State :=
  { s with procs := s.procs.set p { pdbr := BitVec.ofNat 8 root, pcb := BitVec.ofNat 8 control } }

/-! ### Allocators -/

/-- The bit of an index, if it has one: index 0 has none (R29). -/
def Bitmap.bit (bits : Bitmap) (i : Nat) : Option Bool :=
  match i with
  | 0 => none
  | k + 1 => bits[k]?

/-- The bitmap with the bit of an index set to `used`. -/
def Bitmap.put (bits : Bitmap) (i : Nat) (used : Bool) : Bitmap := bits.set (i - 1) used

/-- The first free index of 1 .. n-1, ascending (R120, R127). -/
def Bitmap.firstFree (bits : Bitmap) (n : Nat) : Option Nat :=
  (List.range' 1 (n - 1)).find? fun i => bits.bit i == some false

/-- FUSED[f] = 1 (R29). -/
def State.frameUsed (s : State) (f : Nat) : Bool := s.fused.bit f == some true

/-- SUSED[i] = 1 (R30). -/
def State.slotUsed (s : State) (i : Nat) : Bool := s.sused.bit i == some true

/-- `FUSED[f] <- used`. -/
def State.putFrame (s : State) (f : Nat) (used : Bool) : State :=
  { s with fused := s.fused.put f used }

/-- `SUSED[i] <- used`. -/
def State.putSlot (s : State) (i : Nat) (used : Bool) : State :=
  { s with sused := s.sused.put i used }

/-- FALLOC (R121). The sentinel 0 for exhaustion is `none` here (R13); an exhausted allocator
changes nothing, and the bytes of the frame are not touched. -/
def falloc (s : State) : Option (Nat × State) :=
  (s.fused.firstFree s.nframes).map fun i => (i, s.putFrame i true)

/-- FRELEASE (R123): the spec takes the assert of "no-op/asserts if already free" (C4). -/
def frelease (f : Nat) (s : State) : Result Unit :=
  if f = 0 ∨ s.nframes ≤ f ∨ s.frameUsed f = false then raise .releaseFreeFrame s
  else .ok () (s.putFrame f false)

/-- SPEEK (R126): the slot that SALLOC would return. -/
def speek (s : State) : Option Nat := s.sused.firstFree s.nslots

/-- SALLOC (R124). -/
def salloc (s : State) : Option (Nat × State) :=
  (speek s).map fun i => (i, s.putSlot i true)

/-- SRELEASE (R125): the slot's bytes of SWAP are not cleared. -/
def srelease (i : Nat) (s : State) : Result Unit :=
  if i = 0 ∨ s.nslots ≤ i ∨ s.slotUsed i = false then raise .releaseFreeSlot s
  else .ok () (s.putSlot i false)

/-- The frame number of an entry can be followed: not 0, below NFRAMES, allocated (R193, R202). -/
def validFrame (s : State) (g : Nat) : Bool :=
  decide (1 ≤ g) && decide (g < s.nframes) && s.frameUsed g

/-- The slot number of an entry is below NSLOTS and allocated (R205). -/
def validSlot (s : State) (i : Nat) : Bool := decide (i < s.nslots) && s.slotUsed i

/-! ### Eviction queue -/

/-- QPUSH (R140). A reference is the 8-bit byte address of a leaf entry (R89). -/
def State.pushQueue (s : State) (loc : Nat) : State :=
  { s with queue := s.queue ++ [BitVec.ofNat 8 loc] }

/-- The queue without its first element. -/
def State.dropFront (s : State) : State := { s with queue := s.queue.tail }

/-- QPOP (R141). -/
def qpop (s : State) : Option (Byte × State) :=
  match s.queue with
  | [] => none
  | r :: _ => some (r, s.dropFront)

/-! ### Initialisation and the command interface -/

/-- Every state item as a successful INIT leaves it (R36, R252, R311). FAULTED stays (R33). -/
def State.initialise (s : State) (nf ns : Nat) : State :=
  { s with
    ready := true
    nframes := nf
    nslots := ns
    phys := Memory.zeroed (Config.frameBytes * nf)
    swap := Memory.zeroed (Config.frameBytes * ns)
    fused := List.replicate (nf - 1) false
    sused := List.replicate (ns - 1) false
    queue := []
    procs := List.replicate s.npid { pdbr := 0#8, pcb := 0#8 } }

/-- The host has issued the first word of its stream, and the block has not answered it yet (R20;
log entries 1 and 8). -/
def State.issue (s : State) (rest : List CommandWord) : State :=
  { s with commands := rest, response := none }

end Sys2Proof.Machine
end

