-- ==== Sys2Proof/Machine/Arena.lean ====
section
/-!
DEFINITION. The host's access to the physical arena: PRD (R260) and PWR (R261), with the address
check of R262.
-/

namespace Sys2Proof.Machine

/-- The bounds check of PRD and PWR (R262): only 0 .. 4*NFRAMES-1 exist (R27). -/
def inArena (s : State) (addr : Nat) : Bool := decide (addr < Config.frameBytes * s.nframes)

/-- PRD addr (R260). It has no side effect. -/
def execPrd (addr : Nat) (s : State) : Answer :=
  whenReady s fun s =>
    if inArena s addr then (readPhys addr s).answer else failWith .badAddr s

/-- PWR addr, data (R261). It writes any existing byte, table frames included (D31). -/
def execPwr (addr : Nat) (data : Byte) (s : State) : Answer :=
  whenReady s fun s =>
    if inArena s addr then
      ((writePhys addr data s).bind fun _ s => .ok 0x00#8 s).answer
    else failWith .badAddr s

end Sys2Proof.Machine
end

