-- ==== Sys2Proof/Machine/Walker.lean ====
section
/-!
DEFINITION. The page-table walker and fault handler: EVICT (R193), ALLOC_EVICT (R192), the cases of
one level (R201 to R207), SWAP_IN (R210) and the whole walk (R206).
-/

namespace Sys2Proof.Machine

/-- The writes of a successful EVICT (R193): QPOP, SALLOC, `PHYS[r] <- ENC_SWAPPED(slot)`,
FRELEASE(v), `SWAP[4*slot] <- v`. The victim's data bytes are neither copied nor cleared (D14). -/
def evictVictim (r : Byte) (slot v : Nat) (s : State) : Result Unit :=
  (writePhys r.toNat (encSwapped slot) (s.dropFront.putSlot slot true)).bind fun _ s =>
  (frelease v s).bind fun _ s =>
  writeSwap (frameBase slot) (BitVec.ofNat 8 v) s

/-- EVICT (R193): swap out the oldest mapped leaf. Every test comes before the first write, in the
order of R292, so an error changes nothing. -/
def evict (s : State) : Result Unit :=
  match s.queue with
  | [] => .err .noVictim s
  | r :: _ =>
    match speek s with
    | none => .err .noSwap s
    | some slot =>
      (readPhys r.toNat s).bind fun b s =>
      match classify b with
      | .mapped v =>
        if validFrame s v.toNat then evictVictim r slot v.toNat s else .err .corrupt s
      | .unmapped => .err .corrupt s
      | .swapped _ => .err .corrupt s

/-- The second FALLOC of ALLOC_EVICT: "Retry the allocation exactly once" (R192). -/
def retryAlloc (s : State) : Result Nat :=
  match falloc s with
  | some (g, s') => .ok g s'
  | none => raise .retryFailed s

/-- ALLOC_EVICT (R192): allocate a frame, evicting once if none is free. -/
def allocEvict (s : State) : Result Nat :=
  match falloc s with
  | some (g, s') => .ok g s'
  | none => (evict s).bind fun _ s => retryAlloc s

/-- Unmapped at level 0 or 1 (R203): a new table frame, zero-filled, mapped, not queued. -/
def mapTable (loc : Nat) (s : State) : Result Nat :=
  (allocEvict s).bind fun g s =>
  (zeroFrame g s).bind fun _ s =>
  (writePhys loc (encMapped g) s).bind fun _ s =>
  .ok g s

/-- Unmapped at level 2 (R204): a new data frame, whose bytes are draws, mapped and queued. -/
def mapLeaf (loc : Nat) (s : State) : Result Nat :=
  (allocEvict s).bind fun g s =>
  (drawFrame g s).bind fun _ s =>
  (writePhys loc (encMapped g) s).bind fun _ s =>
  .ok g (s.pushQueue loc)

/-- SWAP_IN (R210): the allocation comes before SRELEASE, so an eviction inside it cannot use the
slot being freed; SWAP is neither read nor cleared. -/
def swapIn (loc slot : Nat) (s : State) : Result Nat :=
  (allocEvict s).bind fun g s =>
  (drawFrame g s).bind fun _ s =>
  (srelease slot s).bind fun _ s =>
  (writePhys loc (encMapped g) s).bind fun _ s =>
  .ok g (s.pushQueue loc)

/-- A mapped entry at any level (R202): descend, with no write, if its frame can be followed. -/
def descend (g : Nat) (s : State) : Result Nat :=
  if validFrame s g then .ok g s else .err .corrupt s

/-- A swapped entry (R205, R207): legal at the leaf level only, and only with a used slot. -/
def restore (lvl : Level) (loc slot : Nat) (s : State) : Result Nat :=
  match lvl with
  | .directory => .err .corrupt s
  | .middleDirectory => .err .corrupt s
  | .table => if validSlot s slot then swapIn loc slot s else .err .corrupt s

/-- An unmapped entry (R203, R204). -/
def create (lvl : Level) (loc : Nat) (s : State) : Result Nat :=
  match lvl with
  | .directory => mapTable loc s
  | .middleDirectory => mapTable loc s
  | .table => mapLeaf loc s

/-- One level of the walk (R201): read the entry at `loc`, classify it and take its case. -/
def walkLevel (lvl : Level) (loc : Nat) (s : State) : Result Nat :=
  (readPhys loc s).bind fun b s =>
  match classify b with
  | .mapped g => descend g.toNat s
  | .unmapped => create lvl loc s
  | .swapped slot => restore lvl loc slot.toNat s

/-- WALK (R206) from table frame `t` over the levels that are left. A failure answers with its
level and keeps what was done (R208); the end answers the leaf's data frame (R209). -/
def walk : List (Level × BitVec 2) → Nat → State → Answer
  | [], t, s => .next (s.respond .ok 0x0#4 (BitVec.ofNat 8 t))
  | (lvl, idx) :: rest, t, s =>
    match walkLevel lvl (entryAddr t idx) s with
    | .ok g s' => walk rest g s'
    | .err e s' => .next (s'.respond e lvl.code 0x00#8)
    | .raised r _ => .fault r

end Sys2Proof.Machine
end

