-- ==== Sys2Proof/Machine/Setup.lean ====
section
/-!
DEFINITION. The commands that set the block up: INIT (R252, R253) and BIND (R254, R255), with
BIND_PROC of the process table (R231).
-/

namespace Sys2Proof.Machine

/-- The size limits of INIT (R253): at most 64 frames and 128 slots, so that every allocated index
fits its field of an entry (R87). -/
def sizesFit (psize ssize : Nat) : Bool :=
  decide (wholeFrames psize ≤ Config.maxFrames) && decide (wholeFrames ssize ≤ Config.maxSlots)

/-- INIT psize, ssize (R252, R253). It does not check READY, and it discards whatever was there. -/
def execInit (psize ssize : Nat) (s : State) : Answer :=
  if sizesFit psize ssize then
    .next ((s.initialise (wholeFrames psize) (wholeFrames ssize)).respond .ok 0x0#4 0x00#8)
  else failWith .badConfig s

/-- The PCB frame: byte 0 is the root's frame index, bytes 1 to 3 are 0x00 (R90). -/
def pcbBytes (root : Nat) : List Byte := [BitVec.ofNat 8 root, 0x00#8, 0x00#8, 0x00#8]

/-- The last part of BIND_PROC (R231): zero the root, write the PCB frame, register the binding. -/
def registerBinding (pid control root : Nat) (s : State) : Result Byte :=
  (zeroFrame root s).bind fun _ s =>
  (writeBytes (frameBase control) (pcbBytes root) s).bind fun _ s =>
  .ok (BitVec.ofNat 8 root) (s.putProc pid control root)

/-- The root allocation of BIND_PROC (R231): if it fails, the PCB frame is released and no binding
is registered. -/
def bindRoot (pid control : Nat) (s : State) : Result Byte :=
  match allocEvict s with
  | .ok root s' => registerBinding pid control root s'
  | .err e s' => (frelease control s').bind fun _ s => .err e s
  | .raised r s' => .raised r s'

/-- BIND_PROC (R231): an existing binding changes nothing; otherwise the PCB frame is allocated
first and then the root. -/
def bindProc (pid : Nat) (s : State) : Result Byte :=
  if s.pdbr pid = 0#8 then (allocEvict s).bind fun control s => bindRoot pid control s
  else .ok (s.pdbr pid) s

/-- BIND pid (R254, R255). INFO is 0 on every failure. -/
def execBind (pid : Nat) (s : State) : Answer :=
  whenReady s fun s =>
    if s.npid ≤ pid then failWith .badPid s else (bindProc pid s).answer

end Sys2Proof.Machine
end

