-- ==== Sys2Proof/Machine/Translate.lean ====
section
/-!
DEFINITION. The command FAULT (R256, R257): translate a virtual address, resolving or creating its
mapping.
-/

namespace Sys2Proof.Machine

/-- FAULT pid, va (R256): the pid check, the binding check (R257), then the walk from PDBR[pid]. -/
def execFault (pid : Nat) (va : Byte) (s : State) : Answer :=
  whenReady s fun s =>
    if s.npid ≤ pid then failWith .badPid s
    else if s.pdbr pid = 0#8 then failWith .notBound s
    else walk (decompose va) (s.pdbr pid).toNat s

end Sys2Proof.Machine
end

