-- ==== Sys2Proof/Machine/Dispatch.lean ====
section
/-!
DEFINITION. One arm for each command: its meaning (R250 (4)).
-/

namespace Sys2Proof.Machine

def exec (i : Instr) (s : State) : Host.Outcome State Fault Refusal :=
  match i with
  | .init psize ssize => Sys2Proof.Machine.execInit psize ssize s
  | .bind pid => Sys2Proof.Machine.execBind pid s
  | .fault pid va => Sys2Proof.Machine.execFault pid va s
  | .prd addr => Sys2Proof.Machine.execPrd addr s
  | .pwr addr data => Sys2Proof.Machine.execPwr addr data s

end Sys2Proof.Machine
end

