-- ==== Sys2Proof/Machine/Receive.lean ====
section
/-!
DEFINITION. Receiving a command word (R250): an illegal word is refused first, otherwise the command
it encodes runs; and how the next word comes from the host (R20, R24).
-/

namespace Sys2Proof.Machine

/-- R250 (1) and (2): ERR_ILLEGAL with no state change (R263), or the command of the word. -/
def receive (w : CommandWord) (s : State) : Answer :=
  match decode w with
  | .ok i => exec i s
  | .error _ => failWith .illegal s

/-- One step: a faulted machine is stuck (R296); with no command to issue the block does nothing
(R20; log entry 2); otherwise the host issues its next word and the block answers it. -/
def advance (s : State) : Answer :=
  match s.faulted with
  | some r => .fault r
  | none =>
    match s.commands with
    | [] => .next s
    | w :: rest => receive w (s.issue rest)

/-- The state in which the host issues the word `w` next, before whatever it was going to issue
(log entry 1). -/
def State.withNextCommand (s : State) (w : CommandWord) : State :=
  { s with commands := w :: s.commands }

end Sys2Proof.Machine
end

