-- ==== Sys2Proof/Machine/Step.lean ====
section
/-!
DEFINITION. The step of the machine: one command of the host (R20, R250).
-/

namespace Sys2Proof.Machine

/-- One step of the machine. -/
def step : State → Host.Outcome State Fault Refusal := advance

/-- The state whose very next step runs the table word `w` of `nbits` bits: the host issues it next
(log entry 1). -/
def State.withFetchWord (s : State) (nbits w : Nat) : State :=
  s.withNextCommand (tableWord nbits w)

end Sys2Proof.Machine
end

