-- ==== Sys2Proof/Safety.lean ====
section
/-!
DEFINITION. The terms in which claims about the block are stated: the shape every state of a run has,
the ownership of frames and slots (R34, R35, R23), the duty of the host (R314), the host's own walk
(R65), and what a command leaves alone.
-/

namespace Sys2Proof.Machine

/-! ### Words -/

/-- An illegal command word (R98), bit by bit: its OP is 0x0 or 0x6 .. 0xF, or a bit that R93 names
no field for is 1. -/
abbrev IllegalWord (w : CommandWord) : Prop :=
  opField w = 0x0#4 ∨ 0x6#4 ≤ opField w ∨ w.extractLsb' 24 4 ≠ 0#4 ∨
    (opField w = 0x2#4 ∧ w.extractLsb' 0 16 ≠ 0#16) ∨
    (opField w = 0x3#4 ∧ w.extractLsb' 8 8 ≠ 0#8) ∨
    (opField w = 0x4#4 ∧ (w.extractLsb' 16 8 ≠ 0#8 ∨ w.extractLsb' 0 8 ≠ 0#8)) ∨
    (opField w = 0x5#4 ∧ w.extractLsb' 16 8 ≠ 0#8)

/-- A command that is not INIT: the ones that READY and the bindings guard (R251). -/
def NotInit (i : Instr) : Prop :=
  match i with
  | .init _ _ => False
  | .bind _ => True
  | .fault _ _ => True
  | .prd _ => True
  | .pwr _ _ => True

/-! ### Shape -/

/-- The widths and ranges of the state items (R8, R22, R26 to R31): each arena lists exactly its
addresses, each bitmap has a bit for each index, every register names a frame that exists or none,
and every reference lies in the arena. No command of the host can break it, PWR included. -/
structure State.WellShaped (s : State) : Prop where
  /-- R8 -/
  npid_pos : 1 ≤ s.npid
  /-- R8 -/
  npid_le : s.npid ≤ Config.maxNpid
  /-- R7, R26 -/
  nframes_le : s.nframes ≤ Config.maxFrames
  /-- R7, R26 -/
  nslots_le : s.nslots ≤ Config.maxSlots
  /-- R27: PHYS has the addresses 0 .. 4*NFRAMES-1, each once, in order. -/
  phys_addrs : s.phys.map Prod.fst = List.range (Config.frameBytes * s.nframes)
  /-- R28: SWAP has the offsets 0 .. 4*NSLOTS-1, each once, in order. -/
  swap_addrs : s.swap.map Prod.fst = List.range (Config.frameBytes * s.nslots)
  /-- R29: one bit for each of 1 .. NFRAMES-1. -/
  fused_length : s.fused.length = s.nframes - 1
  /-- R30: one bit for each of 1 .. NSLOTS-1. -/
  sused_length : s.sused.length = s.nslots - 1
  /-- R22: NPID entries. -/
  procs_length : s.procs.length = s.npid
  /-- R22, R23: no binding in both registers, or a frame that exists in both. -/
  procs_bound : ∀ r ∈ s.procs, (r.pdbr = 0#8 ∧ r.pcb = 0#8) ∨
    (1 ≤ r.pdbr.toNat ∧ r.pdbr.toNat < s.nframes ∧ 1 ≤ r.pcb.toNat ∧ r.pcb.toNat < s.nframes)
  /-- R31: every reference is an address of PHYS. -/
  queue_inside : ∀ r ∈ s.queue, r.toNat < Config.frameBytes * s.nframes

/-- The machine can take a step: it is well shaped and no model fault has been raised (R296). -/
def State.Running (s : State) : Prop := s.faulted = none ∧ s.WellShaped

/-! ### Entries, tables and owners -/

/-- The frame that the entry at an address maps, if it is a Mapped entry (R170). -/
def State.entryFrame (s : State) (a : Nat) : Option Nat :=
  match (s.phys.read a).map classify with
  | some (.mapped f) => some f.toNat
  | some .unmapped => none
  | some (.swapped _) => none
  | none => none

/-- The slot that the entry at an address names, if it is a Swapped entry (R170). -/
def State.entrySlot (s : State) (a : Nat) : Option Nat :=
  match (s.phys.read a).map classify with
  | some (.swapped i) => some i.toNat
  | some (.mapped _) => none
  | some .unmapped => none
  | none => none

/-- The table frame an entry address lies in: the bits [7:2] of a reference (R89). -/
def frameOf (a : Nat) : Nat := a / Config.frameBytes

/-- Frame `t` is the root table of a bound pid (R34 (b)). -/
abbrev State.IsDirectory (s : State) (t : Nat) : Prop :=
  t ≠ 0 ∧ ∃ p, p < s.npid ∧ (s.pdbr p).toNat = t

/-- Frame `t` is the control block of a bound pid (R34 (a)). -/
abbrev State.IsControl (s : State) (t : Nat) : Prop :=
  t ≠ 0 ∧ ∃ p, p < s.npid ∧ (s.pcb p).toNat = t

/-- Frame `t` is a Middle-Directory: an entry of a Directory maps it. -/
abbrev State.IsMiddle (s : State) (t : Nat) : Prop :=
  ∃ a, a < Config.frameBytes * s.nframes ∧ s.entryFrame a = some t ∧ s.IsDirectory (frameOf a)

/-- Frame `t` is a Table: an entry of a Middle-Directory maps it. -/
abbrev State.IsTable (s : State) (t : Nat) : Prop :=
  ∃ a, a < Config.frameBytes * s.nframes ∧ s.entryFrame a = some t ∧ s.IsMiddle (frameOf a)

/-- Frame `f` is pinned (R34 (a) to (c), R214): a control block, a root or an intermediate table. -/
abbrev State.IsPinned (s : State) (f : Nat) : Prop :=
  s.IsControl f ∨ s.IsDirectory f ∨ s.IsMiddle f ∨ s.IsTable f

/-- The address is that of a Directory or Middle-Directory entry. -/
abbrev State.IsUpperEntry (s : State) (a : Nat) : Prop :=
  s.IsDirectory (frameOf a) ∨ s.IsMiddle (frameOf a)

/-- The address is that of a leaf entry. -/
abbrev State.IsLeafEntry (s : State) (a : Nat) : Prop := s.IsTable (frameOf a)

/-- Who can own a frame (R34): a pid, for its control block or its root table, or the entry that
maps it (an upper entry for an intermediate table frame, a leaf entry for a data frame). -/
inductive Owner where
  | control (pid : Nat)
  | root (pid : Nat)
  | entry (a : Nat)
deriving DecidableEq, Repr

/-- The frame `f` belongs to the owner (R34). -/
def State.Owns (s : State) (o : Owner) (f : Nat) : Prop :=
  match o with
  | .control p => p < s.npid ∧ (s.pcb p).toNat = f ∧ f ≠ 0
  | .root p => p < s.npid ∧ (s.pdbr p).toNat = f ∧ f ≠ 0
  | .entry a => (s.IsUpperEntry a ∨ s.IsLeafEntry a) ∧ s.entryFrame a = some f

/-- The invariants of R34 and R35, I-1 to I-5, as facts about one state. -/
structure State.Ownership (s : State) : Prop where
  /-- R34: every allocated frame has an owner. -/
  allocated_owned : ∀ f, s.frameUsed f = true → ∃ o, s.Owns o f
  /-- I-2: whatever is owned, a Mapped entry's frame among it, is allocated (so it is not 0). -/
  owned_allocated : ∀ o f, s.Owns o f → s.frameUsed f = true
  /-- I-1, R34: exactly one owner. -/
  owner_unique : ∀ f o o', s.Owns o f → s.Owns o' f → o = o'
  /-- I-3: a Swapped leaf's slot is used. -/
  swapped_used : ∀ a i, s.IsLeafEntry a → s.entrySlot a = some i → s.slotUsed i = true
  /-- I-3: a used slot is some Swapped leaf's. -/
  used_swapped : ∀ i, s.slotUsed i = true → ∃ a, s.IsLeafEntry a ∧ s.entrySlot a = some i
  /-- I-1: no slot is referenced by two Swapped entries. -/
  slot_unique : ∀ a b i, s.IsLeafEntry a → s.IsLeafEntry b →
    s.entrySlot a = some i → s.entrySlot b = some i → a = b
  /-- I-4: the elements of EQ are distinct. -/
  queue_nodup : s.queue.Nodup
  /-- I-4: EQ holds exactly the references of the Mapped leaf entries. -/
  queue_exact : ∀ a, (∃ r, r ∈ s.queue ∧ r.toNat = a) ↔
    (s.IsLeafEntry a ∧ ∃ f, s.entryFrame a = some f)
  /-- I-5: no Directory or Middle-Directory entry is Swapped. -/
  upper_not_swapped : ∀ a, s.IsUpperEntry a → s.entrySlot a = none

/-- The duty of R314 for one command: no PWR into a table frame, where every Directory,
Middle-Directory and leaf entry lies, or into a PCB frame. -/
def HostDuty (s : State) (i : Instr) : Prop :=
  match i with
  | .pwr addr _ => ¬ s.IsUpperEntry addr ∧ ¬ s.IsLeafEntry addr ∧ ¬ s.IsControl (frameOf addr)
  | .init _ _ => True
  | .bind _ => True
  | .fault _ _ => True
  | .prd _ => True

/-! ### The host's own walk -/

/-- The entries a read-only walk visits from table frame `t` (R65), each with the frame it maps; the
walk ends at the first entry that is not Mapped. -/
def State.hostWalk (s : State) : List (Level × BitVec 2) → Nat → List (Nat × Option Nat)
  | [], _ => []
  | (_, idx) :: rest, t =>
    match s.entryFrame (entryAddr t idx) with
    | none => [(entryAddr t idx, none)]
    | some g => (entryAddr t idx, some g) :: s.hostWalk rest g

/-- The walk of a pid's virtual address (R65). -/
def State.pathOf (s : State) (pid : Nat) (va : Byte) : List (Nat × Option Nat) :=
  s.hostWalk (decompose va) (s.pdbr pid).toNat

/-- The address of the leaf entry and the data frame of a virtual address, where all three entries
are Mapped (R57, R65). -/
def State.translation (s : State) (pid : Nat) (va : Byte) : Option (Nat × Nat) :=
  match s.pathOf pid va with
  | [(_, some _), (_, some _), (loc, some g)] => some (loc, g)
  | _ => none

/-! ### What a command leaves alone -/

/-- Everything but PHYS, SWAP, the two bitmaps, EQ, the process table, the draws and the response is
as it was: READY, NFRAMES, NSLOTS, FAULTED, NPID and the words still to issue. -/
abbrev State.SameControl (s t : State) : Prop :=
  t.ready = s.ready ∧ t.nframes = s.nframes ∧ t.nslots = s.nslots ∧ t.faulted = s.faulted ∧
    t.npid = s.npid ∧ t.commands = s.commands

/-- The response word of a state has this status, INFO and RESULT (R96). -/
abbrev State.Answered (s : State) (st : Status) (info : BitVec 4) (result : Byte) : Prop :=
  s.response = some (responseWord st info result)

/-- No index 1 .. NFRAMES-1 is free, so the next allocation has to evict (R192). -/
abbrev State.FramesFull (s : State) : Prop := ∀ i, i < s.nframes → 1 ≤ i → s.frameUsed i = true

/-- Pinned-frame exhaustion (R214, R317): no frame is free, and every allocated frame is pinned. -/
structure State.Exhausted (s : State) : Prop where
  full : s.FramesFull
  pinned : ∀ f, s.frameUsed f = true → s.IsPinned f

/-- No index 1 .. NSLOTS-1 is free (R193). -/
abbrev State.SlotsFull (s : State) : Prop := ∀ i, i < s.nslots → 1 ≤ i → s.slotUsed i = true

end Sys2Proof.Machine
end

