-- ==== Sys2Proof/Certificates/Slice0/Obligations.lean ====
section
/-!
DEFINITION. The statements about the block, in the order of the spec: encodings, response word, address
and entry codec, allocators and queue, eviction, the five commands, the step, and the rules of the
whole machine. Each docstring names the rules it formalises.
-/

open Sys2Proof Sys2Proof.Machine

/-! ### Encodings -/

/-- R92, R93: decoding the word of a well-formed command gives the command back, every operand at
every value its field admits. -/
def Obligations.DecodeOfEncodeIsTheCommand : Prop :=
  ∀ i : Instr, i.wellFormed = true → decode (encode i) = .ok i

/-- R93, R98, R101: each legal word has one meaning, and its command is well formed and encodes to
that very word. -/
def Obligations.EncodeOfDecodeIsTheWord : Prop :=
  ∀ (w : CommandWord) (i : Instr), decode w = .ok i → i.wellFormed = true ∧ encode i = w

/-- R98: a word is refused exactly when its OP is 0x0 or 0x6 .. 0xF or a reserved bit of its format
is 1; the decoder says which. -/
def Obligations.ReservedWordsAreRefusedByName : Prop :=
  ∀ w : CommandWord,
    (IllegalWord w ↔ ∃ r, decode w = .error r) ∧
    (decode w = .error .reservedOpcode ↔
      w.extractLsb' 28 4 = 0x0#4 ∨ 0x6#4 ≤ w.extractLsb' 28 4)

/-- R93: words of the spec's table, bit by bit, and the commands they stand for. -/
def Obligations.WordsDecodeAsTheTableWritesThem : Prop :=
  decode 0b00010000000000010000000000010000#32 = .ok (.init 16 16) ∧
  decode 0b00100000111111110000000000000000#32 = .ok (.bind 255) ∧
  decode 0b00110000000000110000000011111111#32 = .ok (.fault 3 0xFF#8) ∧
  decode 0b01000000000000001111111100000000#32 = .ok (.prd 255) ∧
  decode 0b01010000000000000001010010101011#32 = .ok (.pwr 20 0xAB#8)

/-- R96, R97: the three fields of a response and the code of each status; answering changes nothing
else (R293). -/
def Obligations.ResponseWordHasThreeFields : Prop :=
  (∀ (s : State) (st : Status) (info : BitVec 4) (result : Byte), ∃ w : ResponseWord,
    s.respond st info result = { s with response := some w } ∧
    w.extractLsb' 12 4 = st.code ∧ w.extractLsb' 8 4 = info ∧ w.extractLsb' 0 8 = result) ∧
  Status.ok.code = 0x0#4 ∧ Status.noVictim.code = 0x1#4 ∧ Status.noSwap.code = 0x2#4 ∧
  Status.badPid.code = 0x3#4 ∧ Status.notBound.code = 0x4#4 ∧ Status.notInit.code = 0x5#4 ∧
  Status.badConfig.code = 0x6#4 ∧ Status.illegal.code = 0x7#4 ∧ Status.corrupt.code = 0x8#4 ∧
  Status.badAddr.code = 0x9#4

/-! ### Virtual address and entry codec -/

/-- R162: the three indices are below 4, and together they give back the address without its offset
bits. -/
def Obligations.IndicesRoundTripToTheAddress : Prop :=
  ∀ va : Byte,
    decompose va = [(.directory, pdIdx va), (.middleDirectory, pmdIdx va), (.table, ptIdx va)] ∧
    (pdIdx va).toNat < 4 ∧ (pmdIdx va).toNat < 4 ∧ (ptIdx va).toNat < 4 ∧
    ((pdIdx va).setWidth 8 <<< 6 ||| (pmdIdx va).setWidth 8 <<< 4 ||| (ptIdx va).setWidth 8 <<< 2)
      = va &&& 0xFC#8

/-- R170, R86: the form of every byte and its number, in arithmetic. -/
def Obligations.EveryByteHasOneForm : Prop :=
  ∀ b : Byte,
    (classify b = .unmapped ↔ b.toNat = 0) ∧
    (∀ f, classify b = .mapped f ↔ b.toNat % 2 = 1 ∧ f.toNat = b.toNat / 4) ∧
    (∀ i, classify b = .swapped i ↔ b.toNat % 2 = 0 ∧ b.toNat ≠ 0 ∧ i.toNat = b.toNat / 2)

/-- R173: the codec's round-trip laws, in both directions. -/
def Obligations.EntryCodecRoundTrips : Prop :=
  (∀ f, f ≤ 63 → classify (encMapped f) = .mapped (BitVec.ofNat 6 f) ∧ encMapped f ≠ 0x00#8) ∧
  (∀ i, 1 ≤ i → i ≤ 127 →
    classify (encSwapped i) = .swapped (BitVec.ofNat 7 i) ∧ encSwapped i ≠ 0x00#8) ∧
  (∀ b : Byte, b.getLsbD 0 = false ∨ (b.getLsbD 0 = true ∧ b.getLsbD 1 = false) →
    (classify b = .unmapped → b = 0x00#8) ∧
    (∀ f, classify b = .mapped f → encMapped f.toNat = b) ∧
    (∀ i, classify b = .swapped i → encSwapped i.toNat = b))

/-! ### Allocators and queue -/

/-- R121, R122, R127: FALLOC takes the lowest free frame, never 0, and changes its bit alone; it fails
exactly when no frame is free. -/
def Obligations.FallocTakesTheLowestFreeFrame : Prop :=
  ∀ s : State, s.WellShaped →
    (falloc s = none ↔ s.FramesFull) ∧
    ∀ g t, falloc s = some (g, t) →
      1 ≤ g ∧ g < s.nframes ∧ s.frameUsed g = false ∧
      (∀ i, 1 ≤ i → i < g → s.frameUsed i = true) ∧
      (∀ i, t.frameUsed i = (decide (i = g) || s.frameUsed i)) ∧
      t = { s with fused := t.fused }

/-- R124, R126: SPEEK finds the lowest free slot without taking it, and SALLOC then takes that one and
changes its bit alone. -/
def Obligations.SallocTakesTheSlotSpeekFinds : Prop :=
  ∀ s : State, s.WellShaped →
    (speek s = none ↔ s.SlotsFull) ∧ (salloc s = none ↔ s.SlotsFull) ∧
    ∀ i, speek s = some i →
      1 ≤ i ∧ i < s.nslots ∧ s.slotUsed i = false ∧
      (∀ j, 1 ≤ j → j < i → s.slotUsed j = true) ∧
      ∃ t, salloc s = some (i, t) ∧
        (∀ j, t.slotUsed j = (decide (j = i) || s.slotUsed j)) ∧
        t = { s with sused := t.sused }

/-- R123: FRELEASE frees an allocated frame and nothing else, its bytes included; for frame 0, a
frame that does not exist or a free frame it raises RELEASE_FREE_FRAME (C4). -/
def Obligations.FreleaseFreesAnAllocatedFrame : Prop :=
  ∀ (s : State) (f : Nat), s.WellShaped →
    (f = 0 ∨ s.nframes ≤ f ∨ s.frameUsed f = false →
      frelease f s = .raised .releaseFreeFrame { s with faulted := some .releaseFreeFrame }) ∧
    (1 ≤ f → f < s.nframes → s.frameUsed f = true →
      ∃ t, frelease f s = .ok () t ∧
        (∀ i, t.frameUsed i = (!decide (i = f) && s.frameUsed i)) ∧
        t = { s with fused := t.fused })

/-- R125: SRELEASE likewise for a slot; the slot's bytes of SWAP stay. -/
def Obligations.SreleaseFreesAnAllocatedSlot : Prop :=
  ∀ (s : State) (i : Nat), s.WellShaped →
    (i = 0 ∨ s.nslots ≤ i ∨ s.slotUsed i = false →
      srelease i s = .raised .releaseFreeSlot { s with faulted := some .releaseFreeSlot }) ∧
    (1 ≤ i → i < s.nslots → s.slotUsed i = true →
      ∃ t, srelease i s = .ok () t ∧
        (∀ j, t.slotUsed j = (!decide (j = i) && s.slotUsed j)) ∧
        t = { s with sused := t.sused })

/-- R140, R141: QPUSH appends, QPOP takes the oldest and answers none on an empty queue. -/
def Obligations.QueuePushesBackAndPopsFront : Prop :=
  ∀ s : State,
    (∀ loc, s.pushQueue loc = { s with queue := s.queue ++ [BitVec.ofNat 8 loc] }) ∧
    (s.queue = [] → qpop s = none) ∧
    (∀ r q, s.queue = r :: q → qpop s = some (r, { s with queue := q }))

/-! ### Eviction -/

/-- R193, R292: EVICT's tests in their order, each failure changing nothing, and its writes: the
victim is the front of EQ, it goes to the lowest free slot, and its frame is freed and recorded. -/
def Obligations.EvictMovesTheOldestLeafOrChangesNothing : Prop :=
  ∀ s : State, s.WellShaped →
    (s.queue = [] → evict s = .err .noVictim s) ∧
    (s.queue ≠ [] → s.SlotsFull → evict s = .err .noSwap s) ∧
    (∀ r q slot, s.queue = r :: q → speek s = some slot →
      (∀ v, s.entryFrame r.toNat = some v → ¬ (1 ≤ v ∧ v < s.nframes ∧ s.frameUsed v = true)) →
      evict s = .err .corrupt s) ∧
    (∀ r q slot v, s.queue = r :: q → speek s = some slot → s.entryFrame r.toNat = some v →
      1 ≤ v → v < s.nframes → s.frameUsed v = true →
      ∃ t, evict s = .ok () t ∧ t.queue = q ∧
        t.entrySlot r.toNat = some slot ∧ t.phys.read r.toNat = some (encSwapped slot) ∧
        (∀ a, a ≠ r.toNat → t.phys.read a = s.phys.read a) ∧
        t.swap.read (4 * slot) = some (BitVec.ofNat 8 v) ∧
        (∀ a, a ≠ 4 * slot → t.swap.read a = s.swap.read a) ∧
        (∀ i, t.slotUsed i = (decide (i = slot) || s.slotUsed i)) ∧
        (∀ i, t.frameUsed i = (!decide (i = v) && s.frameUsed i)) ∧
        s.SameControl t ∧ t.procs = s.procs ∧ t.draws = s.draws ∧ t.response = s.response)

/-- R192, R194: with a free frame ALLOC_EVICT evicts nothing; with none it evicts once, and the retry
returns exactly the victim's frame; if the eviction fails it changes nothing. It never raises
RETRY_FAILED. -/
def Obligations.AllocationRetriesWithTheVictimsFrame : Prop :=
  ∀ s : State, s.WellShaped →
    (∀ g t, falloc s = some (g, t) → allocEvict s = .ok g t) ∧
    (∀ e t, s.FramesFull → evict s = .err e t → t = s ∧ allocEvict s = .err e s) ∧
    (∀ t, s.FramesFull → evict s = .ok () t →
      ∃ r v u, s.queue.head? = some r ∧ s.entryFrame r.toNat = some v ∧
        allocEvict s = .ok v u ∧ u = { t with fused := u.fused } ∧ u.FramesFull) ∧
    (∀ r t, allocEvict s ≠ .raised r t)

/-! ### INIT -/

/-- R252, R253, R311: INIT with sizes within the limits gives every state item its initial value,
whatever was there, and FAULTED, NPID, the draws and the words still to issue stay; beyond the
limits it answers ERR_BAD_CONFIG and changes nothing. -/
def Obligations.InitGivesEveryItemItsInitialValue : Prop :=
  ∀ (s : State) (psize ssize : Nat),
    (psize / 4 ≤ 64 → ssize / 4 ≤ 128 →
      ∃ t, exec (.init psize ssize) s = .next t ∧ t.Answered .ok 0#4 0#8 ∧
        t.ready = true ∧ t.nframes = psize / 4 ∧ t.nslots = ssize / 4 ∧
        (∀ a, t.phys.read a = if a < 4 * (psize / 4) then some 0x00#8 else none) ∧
        (∀ a, t.swap.read a = if a < 4 * (ssize / 4) then some 0x00#8 else none) ∧
        (∀ f, 1 ≤ f → f < psize / 4 → t.fused.bit f = some false) ∧
        (∀ i, 1 ≤ i → i < ssize / 4 → t.sused.bit i = some false) ∧
        t.queue = [] ∧ (∀ p, t.pdbr p = 0#8 ∧ t.pcb p = 0#8) ∧
        t.faulted = s.faulted ∧ t.npid = s.npid ∧ t.draws = s.draws ∧ t.commands = s.commands) ∧
    (64 < psize / 4 ∨ 128 < ssize / 4 →
      exec (.init psize ssize) s = .next (s.respond .badConfig 0#4 0#8))

/-- R34, R35 ("from the post-INIT state"): the invariants hold after a successful INIT of any state,
whose NPID is in its range (R8). -/
def Obligations.InitEstablishesTheInvariants : Prop :=
  ∀ (s t : State) (psize ssize : Nat), 1 ≤ s.npid → s.npid ≤ 256 →
    psize / 4 ≤ 64 → ssize / 4 ≤ 128 →
    exec (.init psize ssize) s = .next t → t.WellShaped ∧ t.Ownership

/-! ### Reset and the READY check -/

/-- R310, R36: at power-on READY is 0 and FAULTED is none. That the state is also well shaped and that
nothing is owned rests on the model's own values for the items the spec gives none (log entries 3
and 4). -/
def Obligations.PowerOnIsNotReadyAndWellShaped : Prop :=
  State.reset.ready = false ∧ State.reset.faulted = none ∧ State.reset.WellShaped ∧
    State.reset.Ownership

/-- R251, R285: before INIT every other command answers ERR_NOT_INIT and changes nothing, whatever its
operands (R291). -/
def Obligations.CommandsBeforeInitAnswerNotInit : Prop :=
  ∀ (s : State) (i : Instr), s.ready = false → NotInit i →
    exec i s = .next (s.respond .notInit 0#4 0#8)

/-! ### BIND -/

/-- R255, R283: BIND and FAULT with a pid of at least NPID answer ERR_BAD_PID, whether or not a
binding could exist, and change nothing. -/
def Obligations.PidsBeyondTheTableAnswerBadPid : Prop :=
  ∀ (s : State) (pid : Nat) (va : Byte), s.ready = true → s.npid ≤ pid →
    exec (.bind pid) s = .next (s.respond .badPid 0#4 0#8) ∧
    exec (.fault pid va) s = .next (s.respond .badPid 0#4 0#8)

/-- R231: BIND of a bound pid answers its root and changes nothing else. -/
def Obligations.BindOfABoundPidAnswersItsRoot : Prop :=
  ∀ (s : State) (pid : Nat), s.ready = true → pid < s.npid → s.pdbr pid ≠ 0#8 →
    exec (.bind pid) s = .next (s.respond .ok 0#4 (s.pdbr pid))

/-- R231, R90: BIND of an unbound pid with two frames free takes the lowest for the control block and
the next for the root, zeroes the root, records its index in the control block, registers the
binding and answers the root; everything else stays. -/
def Obligations.BindTakesTwoFramesAndRegistersTheBinding : Prop :=
  ∀ (s : State) (pid c r : Nat), s.WellShaped → s.ready = true → pid < s.npid →
    s.pdbr pid = 0#8 →
    1 ≤ c → c < r → r < s.nframes → s.frameUsed c = false → s.frameUsed r = false →
    (∀ i, 1 ≤ i → i < r → i ≠ c → s.frameUsed i = true) →
    ∃ t, exec (.bind pid) s = .next t ∧ t.Answered .ok 0#4 (BitVec.ofNat 8 r) ∧
      t.pcb pid = BitVec.ofNat 8 c ∧ t.pdbr pid = BitVec.ofNat 8 r ∧
      (∀ p, p ≠ pid → t.pdbr p = s.pdbr p ∧ t.pcb p = s.pcb p) ∧
      (∀ k, k < 4 → t.phys.read (4 * r + k) = some 0x00#8) ∧
      t.phys.read (4 * c) = some (BitVec.ofNat 8 r) ∧
      (∀ k, 1 ≤ k → k < 4 → t.phys.read (4 * c + k) = some 0x00#8) ∧
      (∀ a, a / 4 ≠ c → a / 4 ≠ r → t.phys.read a = s.phys.read a) ∧
      (∀ i, t.frameUsed i = (decide (i = c) || decide (i = r) || s.frameUsed i)) ∧
      t.swap = s.swap ∧ t.sused = s.sused ∧ t.queue = s.queue ∧ t.draws = s.draws ∧
      s.SameControl t

/-- R231, R254: BIND of an unbound pid follows its two allocations, each of which may evict. If the
first fails BIND answers its error and changes nothing; if the second fails the control-block frame
is released, no binding is made, and what the first evicted stays evicted; if both succeed, the root
is zeroed, the control block written and the binding registered. INFO is 0. -/
def Obligations.BindFollowsItsTwoAllocations : Prop :=
  ∀ (s : State) (pid : Nat), s.WellShaped → s.ready = true → pid < s.npid → s.pdbr pid = 0#8 →
    (∀ e u, allocEvict s = .err e u → exec (.bind pid) s = .next (s.respond e 0#4 0#8)) ∧
    (∀ c s₁ e u, allocEvict s = .ok c s₁ → allocEvict s₁ = .err e u →
      ∃ t, exec (.bind pid) s = .next t ∧ t.Answered e 0#4 0#8 ∧ t.procs = s.procs ∧
        (∀ i, t.frameUsed i = (!decide (i = c) && s₁.frameUsed i)) ∧
        t.phys = s₁.phys ∧ t.swap = s₁.swap ∧ t.sused = s₁.sused ∧ t.queue = s₁.queue ∧
        t.draws = s.draws ∧ s.SameControl t) ∧
    (∀ c s₁ r s₂, s.Ownership → allocEvict s = .ok c s₁ → allocEvict s₁ = .ok r s₂ →
      ∃ t, exec (.bind pid) s = .next t ∧ t.Answered .ok 0#4 (BitVec.ofNat 8 r) ∧
        t.pcb pid = BitVec.ofNat 8 c ∧ t.pdbr pid = BitVec.ofNat 8 r ∧
        (∀ p, p ≠ pid → t.pdbr p = s.pdbr p ∧ t.pcb p = s.pcb p) ∧
        (∀ k, k < 4 → t.phys.read (4 * r + k) = some 0x00#8) ∧
        (∀ k, k < 4 → t.phys.read (4 * c + k) =
          some (if k = 0 then BitVec.ofNat 8 r else 0x00#8)) ∧
        (∀ a, a / 4 ≠ c → a / 4 ≠ r → t.phys.read a = s₂.phys.read a) ∧
        t.fused = s₂.fused ∧ t.sused = s₂.sused ∧ t.swap = s₂.swap ∧ t.queue = s₂.queue ∧
        t.draws = s.draws ∧ s.SameControl t)

/-- R231, R51, R142: BIND always completes, and its frame: it removes at most two elements from the
front of EQ and adds none, writes only the references it removed and the bytes of the two frames of
a new binding, changes no other pid's registers, and leaves every frame used that was used where it
makes a binding. -/
def Obligations.BindCompletesWithinItsFrame : Prop :=
  ∀ (s : State) (pid : Nat), s.WellShaped → s.ready = true → pid < s.npid →
    ∃ t k, exec (.bind pid) s = .next t ∧ k ≤ 2 ∧ t.queue = s.queue.drop k ∧
      s.SameControl t ∧ t.draws = s.draws ∧
      (∀ p, p ≠ pid → t.pdbr p = s.pdbr p ∧ t.pcb p = s.pcb p) ∧
      (s.pdbr pid ≠ 0#8 ∨ t.pdbr pid = 0#8 → t.procs = s.procs) ∧
      (∀ a, (∀ r, r ∈ s.queue.take k → r.toNat ≠ a) →
        (s.pdbr pid = 0#8 → t.pdbr pid ≠ 0#8 →
          a / 4 ≠ (t.pdbr pid).toNat ∧ a / 4 ≠ (t.pcb pid).toNat) →
        t.phys.read a = s.phys.read a) ∧
      (s.pdbr pid = 0#8 → t.pdbr pid ≠ 0#8 → t.Answered .ok 0#4 (t.pdbr pid) ∧
        ∀ i, t.frameUsed i = (decide (i = (t.pdbr pid).toNat) || decide (i = (t.pcb pid).toNat) ||
          s.frameUsed i)) ∧
      (t.pdbr pid = 0#8 → ∀ i, t.frameUsed i = true → s.frameUsed i = true)

/-! ### FAULT -/

/-- R257, R284: FAULT of an unbound pid answers ERR_NOT_BOUND and changes nothing. -/
def Obligations.FaultOfAnUnboundPidAnswersNotBound : Prop :=
  ∀ (s : State) (pid : Nat) (va : Byte), s.ready = true → pid < s.npid → s.pdbr pid = 0#8 →
    exec (.fault pid va) s = .next (s.respond .notBound 0#4 0#8)

/-- R202, R206: where all three entries are Mapped to frames that can be followed, FAULT answers the
leaf's frame and changes nothing else, EQ included (R142). -/
def Obligations.FaultOnAMappedPathAnswersTheFrame : Prop :=
  ∀ (s : State) (pid loc g : Nat) (va : Byte), s.ready = true → pid < s.npid →
    s.pdbr pid ≠ 0#8 → s.translation pid va = some (loc, g) →
    (∀ a f, (a, some f) ∈ s.pathOf pid va → 1 ≤ f ∧ f < s.nframes ∧ s.frameUsed f = true) →
    exec (.fault pid va) s = .next (s.respond .ok 0#4 (BitVec.ofNat 8 g))

/-- R203, R204, R206: with an empty Directory entry and three frames free, FAULT makes the
Middle-Directory, the Table and the data page out of the three lowest, in that order; the new tables
hold their one entry and zeros, the data bytes are the next four draws, and the leaf alone joins
EQ. -/
def Obligations.FaultBuildsAWholePath : Prop :=
  ∀ (s : State) (pid f₀ f₁ f₂ : Nat) (va : Byte), s.WellShaped → s.ready = true → pid < s.npid →
    s.pdbr pid ≠ 0#8 → s.frameUsed (s.pdbr pid).toNat = true →
    s.phys.read (entryAddr (s.pdbr pid).toNat (pdIdx va)) = some 0x00#8 →
    1 ≤ f₀ → f₀ < f₁ → f₁ < f₂ → f₂ < s.nframes →
    s.frameUsed f₀ = false → s.frameUsed f₁ = false → s.frameUsed f₂ = false →
    (∀ i, 1 ≤ i → i < f₂ → i ≠ f₀ → i ≠ f₁ → s.frameUsed i = true) →
    ∃ t, exec (.fault pid va) s = .next t ∧ t.Answered .ok 0#4 (BitVec.ofNat 8 f₂) ∧
      t.phys.read (entryAddr (s.pdbr pid).toNat (pdIdx va)) = some (encMapped f₀) ∧
      (∀ k, k < 4 → t.phys.read (4 * f₀ + k) =
        some (if k = (pmdIdx va).toNat then encMapped f₁ else 0x00#8)) ∧
      (∀ k, k < 4 → t.phys.read (4 * f₁ + k) =
        some (if k = (ptIdx va).toNat then encMapped f₂ else 0x00#8)) ∧
      (∀ k, k < 4 → t.phys.read (4 * f₂ + k) = some (Config.draw (s.draws + k))) ∧
      (∀ a, a ≠ entryAddr (s.pdbr pid).toNat (pdIdx va) → a / 4 ≠ f₀ → a / 4 ≠ f₁ → a / 4 ≠ f₂ →
        t.phys.read a = s.phys.read a) ∧
      t.queue = s.queue ++ [BitVec.ofNat 8 (entryAddr f₁ (ptIdx va))] ∧
      (∀ i, t.frameUsed i =
        (decide (i = f₀) || decide (i = f₁) || decide (i = f₂) || s.frameUsed i)) ∧
      t.draws = s.draws + 4 ∧ t.swap = s.swap ∧ t.sused = s.sused ∧ t.procs = s.procs ∧
      s.SameControl t

/-- R191, R203, R208: an Unmapped entry at level 0 or 1. The walk allocates one frame, evicting if
needed, zero-fills it, maps it and goes on to it, and EQ does not get it; if the allocation fails the
level fails with its error and nothing changed. -/
def Obligations.NewTablesAreZeroFilledAndNotQueued : Prop :=
  ∀ (s : State) (lvl : Level) (loc : Nat), s.WellShaped →
    lvl = .directory ∨ lvl = .middleDirectory → s.phys.read loc = some 0x00#8 →
    (∀ e u, allocEvict s = .err e u → walkLevel lvl loc s = .err e s) ∧
    (∀ g s₁, allocEvict s = .ok g s₁ → loc / 4 ≠ g →
      ∃ t, walkLevel lvl loc s = .ok g t ∧ t.phys.read loc = some (encMapped g) ∧
        (∀ k, k < 4 → t.phys.read (4 * g + k) = some 0x00#8) ∧
        (∀ a, a ≠ loc → a / 4 ≠ g → t.phys.read a = s₁.phys.read a) ∧
        t = { s₁ with phys := t.phys })

/-- R204, R208, R211: an Unmapped leaf under two Mapped entries. FAULT allocates one frame, evicting
if needed, draws its bytes, maps it and queues the leaf; if the allocation fails it answers the error
at level 2 and changes nothing. -/
def Obligations.FaultMapsAnEmptyLeaf : Prop :=
  ∀ (s : State) (pid a₀ a₁ loc m tb : Nat) (va : Byte), s.WellShaped → s.Ownership →
    s.ready = true → pid < s.npid → s.pdbr pid ≠ 0#8 →
    s.pathOf pid va = [(a₀, some m), (a₁, some tb), (loc, none)] →
    s.phys.read loc = some 0x00#8 →
    (∀ e u, allocEvict s = .err e u →
      exec (.fault pid va) s = .next (s.respond e Level.table.code 0#8)) ∧
    (∀ g s₁, allocEvict s = .ok g s₁ →
      ∃ t, exec (.fault pid va) s = .next t ∧ t.Answered .ok 0#4 (BitVec.ofNat 8 g) ∧
        t.phys.read loc = some (encMapped g) ∧
        (∀ k, k < 4 → t.phys.read (4 * g + k) = some (Config.draw (s.draws + k))) ∧
        (∀ a, a ≠ loc → a / 4 ≠ g → t.phys.read a = s₁.phys.read a) ∧
        t.queue = s₁.queue ++ [BitVec.ofNat 8 loc] ∧ t.fused = s₁.fused ∧ t.sused = s₁.sused ∧
        t.swap = s₁.swap ∧ t.draws = s.draws + 4 ∧ t.procs = s.procs ∧ s.SameControl t)

/-- R205, R210: a Swapped leaf with a used slot under two Mapped entries. FAULT allocates first, so an
eviction cannot use that slot, then draws the bytes, frees the slot, maps the leaf and sends it to
the back of EQ; SWAP keeps its record; if the allocation fails the leaf and its slot stay. -/
def Obligations.FaultSwapsALeafBackIn : Prop :=
  ∀ (s : State) (pid a₀ a₁ loc m tb slot : Nat) (va : Byte), s.WellShaped → s.Ownership →
    s.ready = true → pid < s.npid → s.pdbr pid ≠ 0#8 →
    s.pathOf pid va = [(a₀, some m), (a₁, some tb), (loc, none)] →
    s.entrySlot loc = some slot →
    (∀ e u, allocEvict s = .err e u →
      exec (.fault pid va) s = .next (s.respond e Level.table.code 0#8)) ∧
    (∀ g s₁, allocEvict s = .ok g s₁ →
      ∃ t, exec (.fault pid va) s = .next t ∧ t.Answered .ok 0#4 (BitVec.ofNat 8 g) ∧
        t.phys.read loc = some (encMapped g) ∧
        (∀ k, k < 4 → t.phys.read (4 * g + k) = some (Config.draw (s.draws + k))) ∧
        (∀ a, a ≠ loc → a / 4 ≠ g → t.phys.read a = s₁.phys.read a) ∧
        (∀ i, t.slotUsed i = (!decide (i = slot) && s₁.slotUsed i)) ∧
        t.queue = s₁.queue ++ [BitVec.ofNat 8 loc] ∧ t.fused = s₁.fused ∧
        t.swap = s₁.swap ∧ t.draws = s.draws + 4 ∧ t.procs = s.procs ∧ s.SameControl t)

/-- R202, R205, R207, R288: an entry that no block operation could have written ends the walk with
ERR_CORRUPT at its level and changes nothing: at level 0, at level 1 below a frame that can be
followed, and at the leaf below two such frames. -/
def Obligations.FaultOnACorruptEntryAnswersItsLevel : Prop :=
  ∀ (s : State) (pid : Nat) (va : Byte), s.ready = true → pid < s.npid → s.pdbr pid ≠ 0#8 →
    (∀ rest a, (∃ x, s.pathOf pid va = (a, x) :: rest) →
      (∃ f, s.entryFrame a = some f ∧ ¬ (1 ≤ f ∧ f < s.nframes ∧ s.frameUsed f = true)) ∨
        (∃ i, s.entrySlot a = some i) →
      exec (.fault pid va) s = .next (s.respond .corrupt Level.directory.code 0#8)) ∧
    (∀ a₀ m a rest, (∃ x, s.pathOf pid va = (a₀, some m) :: (a, x) :: rest) →
      1 ≤ m → m < s.nframes → s.frameUsed m = true →
      (∃ f, s.entryFrame a = some f ∧ ¬ (1 ≤ f ∧ f < s.nframes ∧ s.frameUsed f = true)) ∨
        (∃ i, s.entrySlot a = some i) →
      exec (.fault pid va) s = .next (s.respond .corrupt Level.middleDirectory.code 0#8)) ∧
    (∀ a₀ m a₁ tb a, (∃ x, s.pathOf pid va = [(a₀, some m), (a₁, some tb), (a, x)]) →
      1 ≤ m → m < s.nframes → s.frameUsed m = true →
      1 ≤ tb → tb < s.nframes → s.frameUsed tb = true →
      (∃ f, s.entryFrame a = some f ∧ ¬ (1 ≤ f ∧ f < s.nframes ∧ s.frameUsed f = true)) ∨
        (∃ i, s.entrySlot a = some i ∧ ¬ (i < s.nslots ∧ s.slotUsed i = true)) →
      exec (.fault pid va) s = .next (s.respond .corrupt Level.table.code 0#8))

/-- R206, R208, R213, R142: FAULT of a bound pid always completes. It answers OK with INFO 0, or
ERR_NO_VICTIM, ERR_NO_SWAP or ERR_CORRUPT with the level and RESULT 0; it removes at most three
elements from the front of EQ, appends at most one, and changes no register. -/
def Obligations.FaultCompletesWithOneStatus : Prop :=
  ∀ (s : State) (pid : Nat) (va : Byte), s.WellShaped → s.ready = true → pid < s.npid →
    s.pdbr pid ≠ 0#8 →
    ∃ t k l, exec (.fault pid va) s = .next t ∧
      ((∃ g, 1 ≤ g ∧ g < s.nframes ∧ t.Answered .ok 0#4 (BitVec.ofNat 8 g)) ∨
        ∃ e lvl, (e = .noVictim ∨ e = .noSwap ∨ e = .corrupt) ∧ t.Answered e (Level.code lvl) 0#8) ∧
      k ≤ 3 ∧ l.length ≤ 1 ∧ t.queue = s.queue.drop k ++ l ∧
      t.procs = s.procs ∧ s.SameControl t

/-- R51, R208, R212: the frame of a FAULT. Every byte of PHYS stays but those of the references it
removed from EQ, of the entries it made (those the path has after it and had not before) and of the
frames these entries map; those frames are used, and every other bit of FUSED stays. -/
def Obligations.FaultWritesOnlyWhatItMaps : Prop :=
  ∀ (s t : State) (pid : Nat) (va : Byte), s.WellShaped → s.Ownership → s.ready = true →
    pid < s.npid → s.pdbr pid ≠ 0#8 → exec (.fault pid va) s = .next t →
    ∃ k l, k ≤ 3 ∧ l.length ≤ 1 ∧ t.queue = s.queue.drop k ++ l ∧
      (∀ a, (∀ r, r ∈ s.queue.take k → r.toNat ≠ a) →
        (∀ x f, (x, some f) ∈ t.pathOf pid va → (x, some f) ∉ s.pathOf pid va →
          a ≠ x ∧ a / 4 ≠ f) →
        t.phys.read a = s.phys.read a) ∧
      (∀ i, t.frameUsed i = true ↔ s.frameUsed i = true ∨
        ∃ x, (x, some i) ∈ t.pathOf pid va ∧ (x, some i) ∉ s.pathOf pid va)

/-- R209: after a successful FAULT the three entries of the path are Mapped, the leaf to the frame the
response carries, and the leaf's reference is in EQ. -/
def Obligations.SuccessfulFaultLeavesTheTranslation : Prop :=
  ∀ (s t : State) (pid : Nat) (va g : Byte), s.WellShaped → s.Ownership →
    exec (.fault pid va) s = .next t → t.Answered .ok 0#4 g →
    ∃ loc, t.translation pid va = some (loc, g.toNat) ∧
      ∃ r, r ∈ t.queue ∧ r.toNat = loc

/-- R213: a FAULT repeated after a success, with no command in between, changes no state: the response
is the same word. -/
def Obligations.RepeatedFaultChangesNothing : Prop :=
  ∀ (s t : State) (pid : Nat) (va g : Byte), s.WellShaped → s.Ownership →
    exec (.fault pid va) s = .next t → t.Answered .ok 0#4 g →
    exec (.fault pid va) t = .next t

/-- R160, R161: addresses that differ in bits 1:0 alone translate identically. That the two runs also
draw the same data bytes is the model's choice (log entry 6). -/
def Obligations.OffsetBitsDoNotMatter : Prop :=
  ∀ (s : State) (pid : Nat) (va va' : Byte), va &&& 0xFC#8 = va' &&& 0xFC#8 →
    exec (.fault pid va) s = exec (.fault pid va') s

/-- R214, R317: when no frame is free and every frame is a control block, a root or an intermediate
table, EQ is empty; every FAULT then answers ERR_NO_VICTIM at some level and every BIND of an unbound
pid answers it too, however many slots are free, and neither changes anything. -/
def Obligations.PinnedFramesDeadlockAllocation : Prop :=
  ∀ s : State, s.WellShaped → s.Ownership → s.ready = true → s.FramesFull →
    (∀ f, s.frameUsed f = true →
      s.IsControl f ∨ s.IsDirectory f ∨ s.IsMiddle f ∨ s.IsTable f) →
    s.queue = [] ∧
    (∀ pid va, pid < s.npid → s.pdbr pid ≠ 0#8 →
      ∃ lvl, exec (.fault pid va) s = .next (s.respond .noVictim (Level.code lvl) 0#8)) ∧
    (∀ pid, pid < s.npid → s.pdbr pid = 0#8 →
      exec (.bind pid) s = .next (s.respond .noVictim 0#4 0#8))

/-! ### PRD and PWR -/

/-- R260: PRD of an existing byte answers it and has no other effect; an address of at least
4*NFRAMES answers ERR_BAD_ADDR, and before INIT the answer is ERR_NOT_INIT. -/
def Obligations.PrdAnswersTheByte : Prop :=
  ∀ (s : State) (addr : Nat), s.WellShaped →
    (s.ready = false → exec (.prd addr) s = .next (s.respond .notInit 0#4 0#8)) ∧
    (s.ready = true → addr < 4 * s.nframes →
      ∃ b, s.phys.read addr = some b ∧ exec (.prd addr) s = .next (s.respond .ok 0#4 b)) ∧
    (s.ready = true → 4 * s.nframes ≤ addr →
      exec (.prd addr) s = .next (s.respond .badAddr 0#4 0#8))

/-- R261: PWR writes one existing byte, a table's or a control block's included, and answers 0; every
other byte and every other state item stays; an address of at least 4*NFRAMES answers
ERR_BAD_ADDR, and before INIT the answer is ERR_NOT_INIT. -/
def Obligations.PwrWritesOneByte : Prop :=
  ∀ (s : State) (addr : Nat) (data : Byte), s.WellShaped →
    (s.ready = false → exec (.pwr addr data) s = .next (s.respond .notInit 0#4 0#8)) ∧
    (s.ready = true → addr < 4 * s.nframes →
      ∃ t, exec (.pwr addr data) s = .next t ∧ t.Answered .ok 0#4 0#8 ∧
        t.phys.read addr = some data ∧
        (∀ a, a ≠ addr → t.phys.read a = s.phys.read a) ∧
        t = { s with phys := t.phys, response := t.response }) ∧
    (s.ready = true → 4 * s.nframes ≤ addr →
      exec (.pwr addr data) s = .next (s.respond .badAddr 0#4 0#8))

/-- R262, R289: PRD and PWR outside the arena answer ERR_BAD_ADDR and change nothing. -/
def Obligations.ArenaAccessIsBoundsChecked : Prop :=
  ∀ (s : State) (addr : Nat) (data : Byte), s.ready = true → 4 * s.nframes ≤ addr →
    exec (.prd addr) s = .next (s.respond .badAddr 0#4 0#8) ∧
    exec (.pwr addr data) s = .next (s.respond .badAddr 0#4 0#8)

/-! ### The step -/

/-- R250, R20: with no model fault raised, a step takes the next word of the host's stream, and a
legal word runs its command; the host's stream and the response register are the model's form of the
interface (log entries 1 and 8). -/
def Obligations.StepRunsTheDecodedCommand : Prop :=
  (∀ (s : State) (w : CommandWord) (rest : List CommandWord) (i : Instr), s.faulted = none →
    s.commands = w :: rest → decode w = .ok i →
    step s = exec i { s with commands := rest, response := none }) ∧
  (∀ (s : State) (i : Instr), s.faulted = none → i.wellFormed = true →
    step (s.withFetchWord 32 (encode i).toNat) = exec i { s with response := none })

/-- R263, R98: an illegal word answers ERR_ILLEGAL and changes no state, even before INIT; the word
leaves the host's stream. -/
def Obligations.IllegalWordsAnswerIllegal : Prop :=
  ∀ (s : State) (w : CommandWord) (rest : List CommandWord), s.faulted = none →
    s.commands = w :: rest → IllegalWord w →
    step s = .next (({ s with commands := rest } : State).respond .illegal 0#4 0#8)

/-- R20, R296: the model's choice for a host that issues nothing (log entry 2) is a step that changes
nothing; and a machine in which a model fault has been raised has no further step (log entry 7). -/
def Obligations.IdleAndFaultedSteps : Prop :=
  (∀ s : State, s.faulted = none → s.commands = [] → step s = .next s) ∧
  (∀ (s : State) (r : Fault), s.faulted = some r → step s = .fault r)

/-! ### Rules of the whole machine -/

/-- R22, R26 to R31, R54: every step keeps the shape: the arenas keep exactly their addresses, the
bitmaps their indices, and every register and reference stays in range. No host command can break
it. -/
def Obligations.StepKeepsTheShape : Prop :=
  ∀ s t : State, s.WellShaped → step s = .next t → t.WellShaped

/-- R296: no command reaches a model fault, whatever the host has written through PWR: from a
well-shaped state every step answers a next state from which the same holds. -/
def Obligations.StepNeverFaults : Prop :=
  ∀ s : State, s.Running → ∃ t, step s = .next t ∧ t.Running

/-- R35, R34: every step keeps the invariants I-1 to I-5, unless the host writes a table frame or a
control block through PWR (R314). -/
def Obligations.StepKeepsTheOwnership : Prop :=
  ∀ s t : State, s.WellShaped → s.Ownership →
    (∀ w rest i, s.commands = w :: rest → decode w = .ok i → HostDuty s i) →
    step s = .next t → t.Ownership

/-- R22, R232: a binding, once written, is never changed before the next INIT, whatever the command
and whatever the host wrote. -/
def Obligations.BindingsStayUntilInit : Prop :=
  ∀ (s t : State) (i : Instr) (p : Nat), s.WellShaped → NotInit i → exec i s = .next t →
    s.pdbr p ≠ 0#8 → t.pdbr p = s.pdbr p ∧ t.pcb p = s.pcb p

/-- R25, R26: only INIT writes NFRAMES and NSLOTS, and no command clears READY. -/
def Obligations.OnlyInitWritesTheConfiguration : Prop :=
  ∀ (s t : State) (i : Instr), exec i s = .next t →
    (NotInit i → t.nframes = s.nframes ∧ t.nslots = s.nslots ∧ t.ready = s.ready) ∧
    (s.ready = true → t.ready = true)

/-- R52, R91: SWAP is written by INIT and by evictions only, and an eviction writes byte 0 of a slot
that was free and is now used. -/
def Obligations.SwapChangesOnlyInNewlyUsedSlots : Prop :=
  ∀ (s t : State) (i : Instr) (a : Nat), s.WellShaped → NotInit i → exec i s = .next t →
    t.swap.read a ≠ s.swap.read a →
    ∃ slot, a = 4 * slot ∧ s.slotUsed slot = false ∧ t.slotUsed slot = true

/-- R142, R144: EQ is first in, first out through every command but INIT: elements leave at the front
only, what stays keeps its order, and at most one element joins, at the back, and only by FAULT; a
FAULT whose leaf is already Mapped leaves EQ as it was. -/
def Obligations.QueueIsFirstInFirstOut : Prop :=
  (∀ (s t : State) (i : Instr), s.WellShaped → NotInit i → exec i s = .next t →
    ∃ k l, t.queue = s.queue.drop k ++ l ∧ l.length ≤ 1 ∧
      (l ≠ [] → ∃ pid va, i = .fault pid va)) ∧
  (∀ (s t : State) (pid : Nat) (va : Byte) (x : Nat × Nat), s.WellShaped →
    exec (.fault pid va) s = .next t → s.translation pid va = some x → t.queue = s.queue)

/-- R214, R34: control blocks, roots and intermediate tables stay allocated and never change their kind
before the next INIT, if the host keeps its duty. -/
def Obligations.PinnedFramesStayPinned : Prop :=
  ∀ (s t : State) (i : Instr) (f : Nat), s.WellShaped → s.Ownership → NotInit i → HostDuty s i →
    exec i s = .next t →
    (s.IsControl f → t.IsControl f) ∧ (s.IsDirectory f → t.IsDirectory f) ∧
    (s.IsMiddle f → t.IsMiddle f) ∧ (s.IsTable f → t.IsTable f) ∧
    (s.IsPinned f → t.frameUsed f = true)

/-- R233, R51, R314: the block does not read the bytes of a control block or of frame 0: changing one
before a BIND or a FAULT changes that byte afterwards and nothing else. The data bytes that a FAULT
draws are the same in both runs because both start at one value of the counter `draws`: that is the
model's choice (log entry 6, unsafe), not the spec's. -/
def Obligations.ControlBlockBytesDoNotMatter : Prop :=
  ∀ (s t : State) (i : Instr) (a : Nat) (v : Byte), s.WellShaped → s.Ownership →
    ((∃ pid, i = .bind pid) ∨ ∃ pid va, i = .fault pid va) →
    a < 4 * s.nframes → a / 4 = 0 ∨ s.IsControl (a / 4) →
    exec i s = .next t → exec i (s.putPhys a v) = .next (t.putPhys a v)

/-- R214, R317: once no frame is free and every frame is pinned, this stays so, with the shape and the
invariants of R35, through every step but an INIT, if the host keeps its duty. -/
def Obligations.StepKeepsTheExhaustion : Prop :=
  ∀ s t : State, s.WellShaped → s.Ownership → s.Exhausted →
    (∀ w rest i, s.commands = w :: rest → decode w = .ok i → NotInit i ∧ HostDuty s i) →
    step s = .next t → t.WellShaped ∧ t.Ownership ∧ t.Exhausted
end

