-- ==== Sys2Proof/Laws/Ownership.lean ====
section
/-!
SUPPORT. Checks of the shape and of the ownership invariants that can be evaluated, and their soundness:
a state that passes them has `State.WellShaped` and `State.Ownership`.
-/

namespace Sys2Proof.Machine

/-- The shape as one computation. -/
def State.shapeCheck (s : State) : Bool :=
  decide (1 ≤ s.npid) && decide (s.npid ≤ Config.maxNpid) &&
  decide (s.nframes ≤ Config.maxFrames) && decide (s.nslots ≤ Config.maxSlots) &&
  decide (s.phys.map Prod.fst = List.range (Config.frameBytes * s.nframes)) &&
  decide (s.swap.map Prod.fst = List.range (Config.frameBytes * s.nslots)) &&
  decide (s.fused.length = s.nframes - 1) && decide (s.sused.length = s.nslots - 1) &&
  decide (s.procs.length = s.npid) &&
  s.procs.all (fun r => decide ((r.pdbr = 0#8 ∧ r.pcb = 0#8) ∨
    (1 ≤ r.pdbr.toNat ∧ r.pdbr.toNat < s.nframes ∧ 1 ≤ r.pcb.toNat ∧ r.pcb.toNat < s.nframes))) &&
  s.queue.all (fun r => decide (r.toNat < Config.frameBytes * s.nframes))

theorem shaped_of_check {s : State} (h : s.shapeCheck = true) : s.WellShaped := by
  simp only [State.shapeCheck, Bool.and_eq_true, decide_eq_true_eq, List.all_eq_true] at h
  obtain ⟨⟨⟨⟨⟨⟨⟨⟨⟨⟨h1, h2⟩, h3⟩, h4⟩, h5⟩, h6⟩, h7⟩, h8⟩, h9⟩, h10⟩, h11⟩ := h
  exact ⟨h1, h2, h3, h4, h5, h6, h7, h8, h9, h10, h11⟩

/-- A byte that is read is listed. -/
theorem Memory.mem_of_read {m : Memory} {a : Nat} {b : Byte} (h : m.read a = some b) :
    a ∈ m.map Prod.fst := by
  induction m with
  | nil => simp [Memory.read] at h
  | cons c rest ih =>
    simp only [Memory.read] at h
    split at h
    · next he => simp [he]
    · simp only [List.map_cons, List.mem_cons]; exact .inr (ih h)

/-- An entry that classifies lies in the arena. -/
theorem entryFrame_inside {s : State} (hs : s.WellShaped) {a f : Nat}
    (h : s.entryFrame a = some f) : a < Config.frameBytes * s.nframes := by
  unfold State.entryFrame at h
  cases hr : s.phys.read a with
  | none => simp [hr] at h
  | some b => simpa [hs.phys_addrs] using Memory.mem_of_read hr

theorem entrySlot_inside {s : State} (hs : s.WellShaped) {a i : Nat}
    (h : s.entrySlot a = some i) : a < Config.frameBytes * s.nframes := by
  unfold State.entrySlot at h
  cases hr : s.phys.read a with
  | none => simp [hr] at h
  | some b => simpa [hs.phys_addrs] using Memory.mem_of_read hr

/-- The addresses of PHYS. -/
def State.addrs (s : State) : List Nat := List.range (Config.frameBytes * s.nframes)

/-- Every owner of a frame, with its frame. -/
def State.owners (s : State) : List (Owner × Nat) :=
  ((List.range s.npid).filter fun p => s.pcb p != 0#8).map
      (fun p => (Owner.control p, (s.pcb p).toNat)) ++
  ((List.range s.npid).filter fun p => s.pdbr p != 0#8).map
      (fun p => (Owner.root p, (s.pdbr p).toNat)) ++
  s.addrs.filterMap fun a =>
    match s.entryFrame a with
    | none => none
    | some f => if s.IsUpperEntry a ∨ s.IsLeafEntry a then some (Owner.entry a, f) else none

/-- The Swapped leaf entries, each with its slot. -/
def State.swappedLeaves (s : State) : List (Nat × Nat) :=
  s.addrs.filterMap fun a =>
    match s.entrySlot a with
    | none => none
    | some i => if s.IsLeafEntry a then some (a, i) else none

/-- The Mapped leaf entries. -/
def State.mappedLeaves (s : State) : List Nat :=
  s.addrs.filter fun a => (s.entryFrame a).isSome && decide (s.IsLeafEntry a)

/-- The invariants of R35 as one computation. -/
def State.ownershipCheck (s : State) : Bool :=
  (List.range s.nframes).all (fun f => !s.frameUsed f || (s.owners.map Prod.snd).contains f) &&
  s.owners.all (fun x => s.frameUsed x.2) &&
  decide (s.owners.map Prod.snd).Nodup &&
  s.swappedLeaves.all (fun x => s.slotUsed x.2) &&
  (List.range s.nslots).all (fun i => !s.slotUsed i || (s.swappedLeaves.map Prod.snd).contains i) &&
  decide (s.swappedLeaves.map Prod.snd).Nodup &&
  decide (s.queue.map BitVec.toNat).Nodup &&
  s.queue.all (fun r => s.mappedLeaves.contains r.toNat) &&
  s.mappedLeaves.all (fun a => (s.queue.map BitVec.toNat).contains a) &&
  s.addrs.all (fun a => (s.entrySlot a).isNone || !decide (s.IsUpperEntry a))

theorem mem_owners {s : State} (hs : s.WellShaped) (o : Owner) (f : Nat) :
    (o, f) ∈ s.owners ↔ s.Owns o f := by
  have hz : ∀ b : Byte, b = 0#8 ↔ b.toNat = 0 := fun b => by
    rw [BitVec.toNat_eq]; simp
  simp only [State.owners, List.mem_append, List.mem_map, List.mem_filter, List.mem_range,
    List.mem_filterMap, State.addrs, bne_iff_ne, ne_eq, Prod.mk.injEq]
  cases o with
  | control p =>
    simp only [State.Owns]
    constructor
    · rintro ((⟨q, ⟨hq, hn⟩, he, rfl⟩ | ⟨q, _, he, _⟩) | ⟨a, _, ha⟩)
      · cases he; exact ⟨hq, rfl, fun h => hn ((hz _).2 h)⟩
      · cases he
      · split at ha
        · cases ha
        · split at ha <;> simp at ha
    · rintro ⟨hp, rfl, hn⟩
      exact .inl (.inl ⟨p, ⟨hp, fun h => hn ((hz _).1 h)⟩, rfl, rfl⟩)
  | root p =>
    simp only [State.Owns]
    constructor
    · rintro ((⟨q, _, he, _⟩ | ⟨q, ⟨hq, hn⟩, he, rfl⟩) | ⟨a, _, ha⟩)
      · cases he
      · cases he; exact ⟨hq, rfl, fun h => hn ((hz _).2 h)⟩
      · split at ha
        · cases ha
        · split at ha <;> simp at ha
    · rintro ⟨hp, rfl, hn⟩
      exact .inl (.inr ⟨p, ⟨hp, fun h => hn ((hz _).1 h)⟩, rfl, rfl⟩)
  | entry a =>
    simp only [State.Owns]
    constructor
    · rintro ((⟨q, _, he, _⟩ | ⟨q, _, he, _⟩) | ⟨b, _, hb⟩)
      · cases he
      · cases he
      · split at hb
        · cases hb
        · next g hg =>
          split at hb
          · next hl => cases hb; exact ⟨hl, hg⟩
          · cases hb
    · rintro ⟨hl, hf⟩
      refine .inr ⟨a, entryFrame_inside hs hf, ?_⟩
      simp only [hf, if_pos hl]

theorem mem_swappedLeaves {s : State} (hs : s.WellShaped) (a i : Nat) :
    (a, i) ∈ s.swappedLeaves ↔ s.IsLeafEntry a ∧ s.entrySlot a = some i := by
  simp only [State.swappedLeaves, List.mem_filterMap, State.addrs, List.mem_range]
  constructor
  · rintro ⟨b, _, hb⟩
    split at hb
    · cases hb
    · next j hj =>
      split at hb
      · next hl => cases hb; exact ⟨hl, hj⟩
      · cases hb
  · rintro ⟨hl, hi⟩
    exact ⟨a, entrySlot_inside hs hi, by simp only [hi, if_pos hl]⟩

theorem mem_mappedLeaves {s : State} (hs : s.WellShaped) (a : Nat) :
    a ∈ s.mappedLeaves ↔ s.IsLeafEntry a ∧ ∃ f, s.entryFrame a = some f := by
  simp only [State.mappedLeaves, List.mem_filter, State.addrs, List.mem_range, Bool.and_eq_true,
    decide_eq_true_eq, Option.isSome_iff_exists]
  constructor
  · rintro ⟨_, hf, hl⟩; exact ⟨hl, hf⟩
  · rintro ⟨hl, f, hf⟩; exact ⟨entryFrame_inside hs hf, ⟨f, hf⟩, hl⟩

/-- Two members of a list with the same second part are one, if the second parts are distinct. -/
theorem pair_unique {α : Type} {l : List (α × Nat)} (hn : (l.map Prod.snd).Nodup) {x y : α} {n : Nat}
    (hx : (x, n) ∈ l) (hy : (y, n) ∈ l) : x = y :=
  congrArg Prod.fst (List.inj_on_of_nodup_map hn hx hy rfl)

/-- An index whose bit is set is in range. -/
theorem used_inside {bits : Bitmap} {n i : Nat} (hl : bits.length = n - 1)
    (h : (bits.bit i == some true) = true) : 1 ≤ i ∧ i < n := by
  cases i with
  | zero => simp [Bitmap.bit] at h
  | succ k =>
    simp only [Bitmap.bit, beq_iff_eq, List.getElem?_eq_some_iff] at h
    obtain ⟨hk, _⟩ := h
    omega

/-- The check is sound. -/
theorem ownership_of_check {s : State} (hs : s.WellShaped) (h : s.ownershipCheck = true) :
    s.Ownership := by
  simp only [State.ownershipCheck, Bool.and_eq_true, List.all_eq_true, decide_eq_true_eq,
    List.mem_range, Bool.or_eq_true, Bool.not_eq_true', List.contains_iff_mem, Prod.forall,
    List.mem_map, Option.isNone_iff_eq_none, Prod.exists, exists_eq_right] at h
  obtain ⟨⟨⟨⟨⟨⟨⟨⟨⟨h1, h2⟩, h3⟩, h4⟩, h5⟩, h6⟩, h7⟩, h8⟩, h9⟩, h10⟩ := h
  refine ⟨?_, ?_, ?_, ?_, ?_, ?_, ?_, ?_, ?_⟩
  · intro f hf
    have hlt := (used_inside hs.fused_length hf).2
    rcases h1 f hlt with h | ⟨o, ho⟩
    · rw [h] at hf; cases hf
    · exact ⟨o, (mem_owners hs o f).1 ho⟩
  · intro o f ho
    exact h2 o f ((mem_owners hs o f).2 ho)
  · intro f o o' ho ho'
    exact pair_unique h3 ((mem_owners hs o f).2 ho) ((mem_owners hs o' f).2 ho')
  · intro a i hl hi
    exact h4 a i ((mem_swappedLeaves hs a i).2 ⟨hl, hi⟩)
  · intro i hi
    have hlt := (used_inside hs.sused_length hi).2
    rcases h5 i hlt with h | ⟨a, ha⟩
    · rw [h] at hi; cases hi
    · exact ⟨a, (mem_swappedLeaves hs a i).1 ha⟩
  · intro a b i ha hb hai hbi
    exact pair_unique h6 ((mem_swappedLeaves hs a i).2 ⟨ha, hai⟩)
      ((mem_swappedLeaves hs b i).2 ⟨hb, hbi⟩)
  · exact List.Nodup.of_map _ h7
  · intro a
    rw [← mem_mappedLeaves hs a]
    constructor
    · rintro ⟨r, hr, rfl⟩; exact h8 r hr
    · exact fun ha => h9 a ha
  · intro a ha
    cases hi : s.entrySlot a with
    | none => rfl
    | some i =>
      have := h10 a (by simpa [State.addrs] using entrySlot_inside hs hi)
      simp [hi, ha] at this

/-- A pinned frame is allocated (R34 (a) to (c)). -/
theorem State.Ownership.pinned_used {s : State} (h : s.Ownership) {f : Nat} (hp : s.IsPinned f) :
    s.frameUsed f = true := by
  obtain ⟨h0, p, hp, hf⟩ | ⟨h0, p, hp, hf⟩ | ⟨a, -, ha, hd⟩ | ⟨a, -, ha, hm⟩ := hp
  · exact h.owned_allocated (.control p) f ⟨hp, hf, h0⟩
  · exact h.owned_allocated (.root p) f ⟨hp, hf, h0⟩
  · exact h.owned_allocated (.entry a) f ⟨.inl (.inl hd), ha⟩
  · exact h.owned_allocated (.entry a) f ⟨.inl (.inr hm), ha⟩

end Sys2Proof.Machine
end

