-- ==== Sys2Proof/Laws/State.lean ====
section
/-!
SUPPORT. What each update of the state does to each field, one lemma a pair, so that no proof unfolds a
record update; then the same for the derived readings of the bitmaps and of the process table, and
for the entries of PHYS.
-/

namespace Sys2Proof.Machine

/-! ### respond -/

@[simp] theorem State.respond_ready (s : State) (st : Status) (info : BitVec 4) (result : Byte) :
    (s.respond st info result).ready = s.ready := rfl
@[simp] theorem State.respond_nframes (s : State) (st : Status) (info : BitVec 4) (result : Byte) :
    (s.respond st info result).nframes = s.nframes := rfl
@[simp] theorem State.respond_nslots (s : State) (st : Status) (info : BitVec 4) (result : Byte) :
    (s.respond st info result).nslots = s.nslots := rfl
@[simp] theorem State.respond_phys (s : State) (st : Status) (info : BitVec 4) (result : Byte) :
    (s.respond st info result).phys = s.phys := rfl
@[simp] theorem State.respond_swap (s : State) (st : Status) (info : BitVec 4) (result : Byte) :
    (s.respond st info result).swap = s.swap := rfl
@[simp] theorem State.respond_fused (s : State) (st : Status) (info : BitVec 4) (result : Byte) :
    (s.respond st info result).fused = s.fused := rfl
@[simp] theorem State.respond_sused (s : State) (st : Status) (info : BitVec 4) (result : Byte) :
    (s.respond st info result).sused = s.sused := rfl
@[simp] theorem State.respond_queue (s : State) (st : Status) (info : BitVec 4) (result : Byte) :
    (s.respond st info result).queue = s.queue := rfl
@[simp] theorem State.respond_procs (s : State) (st : Status) (info : BitVec 4) (result : Byte) :
    (s.respond st info result).procs = s.procs := rfl
@[simp] theorem State.respond_faulted (s : State) (st : Status) (info : BitVec 4) (result : Byte) :
    (s.respond st info result).faulted = s.faulted := rfl
@[simp] theorem State.respond_npid (s : State) (st : Status) (info : BitVec 4) (result : Byte) :
    (s.respond st info result).npid = s.npid := rfl
@[simp] theorem State.respond_commands (s : State) (st : Status) (info : BitVec 4) (result : Byte) :
    (s.respond st info result).commands = s.commands := rfl
@[simp] theorem State.respond_response (s : State) (st : Status) (info : BitVec 4) (result : Byte) :
    (s.respond st info result).response = some (responseWord st info result) := rfl
@[simp] theorem State.respond_draws (s : State) (st : Status) (info : BitVec 4) (result : Byte) :
    (s.respond st info result).draws = s.draws := rfl
@[simp] theorem State.respond_frameUsed (s : State) (st : Status) (info : BitVec 4) (result : Byte) (k : Nat) :
    (s.respond st info result).frameUsed k = s.frameUsed k := rfl
@[simp] theorem State.respond_slotUsed (s : State) (st : Status) (info : BitVec 4) (result : Byte) (k : Nat) :
    (s.respond st info result).slotUsed k = s.slotUsed k := rfl
@[simp] theorem State.respond_pdbr (s : State) (st : Status) (info : BitVec 4) (result : Byte) (k : Nat) :
    (s.respond st info result).pdbr k = s.pdbr k := rfl
@[simp] theorem State.respond_pcb (s : State) (st : Status) (info : BitVec 4) (result : Byte) (k : Nat) :
    (s.respond st info result).pcb k = s.pcb k := rfl
@[simp] theorem State.respond_entryFrame (s : State) (st : Status) (info : BitVec 4) (result : Byte) (k : Nat) :
    (s.respond st info result).entryFrame k = s.entryFrame k := rfl
@[simp] theorem State.respond_entrySlot (s : State) (st : Status) (info : BitVec 4) (result : Byte) (k : Nat) :
    (s.respond st info result).entrySlot k = s.entrySlot k := rfl

/-! ### markFaulted -/

@[simp] theorem State.markFaulted_ready (s : State) (r : Fault) :
    (s.markFaulted r).ready = s.ready := rfl
@[simp] theorem State.markFaulted_nframes (s : State) (r : Fault) :
    (s.markFaulted r).nframes = s.nframes := rfl
@[simp] theorem State.markFaulted_nslots (s : State) (r : Fault) :
    (s.markFaulted r).nslots = s.nslots := rfl
@[simp] theorem State.markFaulted_phys (s : State) (r : Fault) :
    (s.markFaulted r).phys = s.phys := rfl
@[simp] theorem State.markFaulted_swap (s : State) (r : Fault) :
    (s.markFaulted r).swap = s.swap := rfl
@[simp] theorem State.markFaulted_fused (s : State) (r : Fault) :
    (s.markFaulted r).fused = s.fused := rfl
@[simp] theorem State.markFaulted_sused (s : State) (r : Fault) :
    (s.markFaulted r).sused = s.sused := rfl
@[simp] theorem State.markFaulted_queue (s : State) (r : Fault) :
    (s.markFaulted r).queue = s.queue := rfl
@[simp] theorem State.markFaulted_procs (s : State) (r : Fault) :
    (s.markFaulted r).procs = s.procs := rfl
@[simp] theorem State.markFaulted_faulted (s : State) (r : Fault) :
    (s.markFaulted r).faulted = some r := rfl
@[simp] theorem State.markFaulted_npid (s : State) (r : Fault) :
    (s.markFaulted r).npid = s.npid := rfl
@[simp] theorem State.markFaulted_commands (s : State) (r : Fault) :
    (s.markFaulted r).commands = s.commands := rfl
@[simp] theorem State.markFaulted_response (s : State) (r : Fault) :
    (s.markFaulted r).response = s.response := rfl
@[simp] theorem State.markFaulted_draws (s : State) (r : Fault) :
    (s.markFaulted r).draws = s.draws := rfl
@[simp] theorem State.markFaulted_frameUsed (s : State) (r : Fault) (k : Nat) :
    (s.markFaulted r).frameUsed k = s.frameUsed k := rfl
@[simp] theorem State.markFaulted_slotUsed (s : State) (r : Fault) (k : Nat) :
    (s.markFaulted r).slotUsed k = s.slotUsed k := rfl
@[simp] theorem State.markFaulted_pdbr (s : State) (r : Fault) (k : Nat) :
    (s.markFaulted r).pdbr k = s.pdbr k := rfl
@[simp] theorem State.markFaulted_pcb (s : State) (r : Fault) (k : Nat) :
    (s.markFaulted r).pcb k = s.pcb k := rfl
@[simp] theorem State.markFaulted_entryFrame (s : State) (r : Fault) (k : Nat) :
    (s.markFaulted r).entryFrame k = s.entryFrame k := rfl
@[simp] theorem State.markFaulted_entrySlot (s : State) (r : Fault) (k : Nat) :
    (s.markFaulted r).entrySlot k = s.entrySlot k := rfl

/-! ### putPhys -/

@[simp] theorem State.putPhys_ready (s : State) (a : Nat) (v : Byte) :
    (s.putPhys a v).ready = s.ready := rfl
@[simp] theorem State.putPhys_nframes (s : State) (a : Nat) (v : Byte) :
    (s.putPhys a v).nframes = s.nframes := rfl
@[simp] theorem State.putPhys_nslots (s : State) (a : Nat) (v : Byte) :
    (s.putPhys a v).nslots = s.nslots := rfl
@[simp] theorem State.putPhys_phys (s : State) (a : Nat) (v : Byte) :
    (s.putPhys a v).phys = s.phys.write a v := rfl
@[simp] theorem State.putPhys_swap (s : State) (a : Nat) (v : Byte) :
    (s.putPhys a v).swap = s.swap := rfl
@[simp] theorem State.putPhys_fused (s : State) (a : Nat) (v : Byte) :
    (s.putPhys a v).fused = s.fused := rfl
@[simp] theorem State.putPhys_sused (s : State) (a : Nat) (v : Byte) :
    (s.putPhys a v).sused = s.sused := rfl
@[simp] theorem State.putPhys_queue (s : State) (a : Nat) (v : Byte) :
    (s.putPhys a v).queue = s.queue := rfl
@[simp] theorem State.putPhys_procs (s : State) (a : Nat) (v : Byte) :
    (s.putPhys a v).procs = s.procs := rfl
@[simp] theorem State.putPhys_faulted (s : State) (a : Nat) (v : Byte) :
    (s.putPhys a v).faulted = s.faulted := rfl
@[simp] theorem State.putPhys_npid (s : State) (a : Nat) (v : Byte) :
    (s.putPhys a v).npid = s.npid := rfl
@[simp] theorem State.putPhys_commands (s : State) (a : Nat) (v : Byte) :
    (s.putPhys a v).commands = s.commands := rfl
@[simp] theorem State.putPhys_response (s : State) (a : Nat) (v : Byte) :
    (s.putPhys a v).response = s.response := rfl
@[simp] theorem State.putPhys_draws (s : State) (a : Nat) (v : Byte) :
    (s.putPhys a v).draws = s.draws := rfl
@[simp] theorem State.putPhys_frameUsed (s : State) (a : Nat) (v : Byte) (k : Nat) :
    (s.putPhys a v).frameUsed k = s.frameUsed k := rfl
@[simp] theorem State.putPhys_slotUsed (s : State) (a : Nat) (v : Byte) (k : Nat) :
    (s.putPhys a v).slotUsed k = s.slotUsed k := rfl
@[simp] theorem State.putPhys_pdbr (s : State) (a : Nat) (v : Byte) (k : Nat) :
    (s.putPhys a v).pdbr k = s.pdbr k := rfl
@[simp] theorem State.putPhys_pcb (s : State) (a : Nat) (v : Byte) (k : Nat) :
    (s.putPhys a v).pcb k = s.pcb k := rfl

/-! ### putSwap -/

@[simp] theorem State.putSwap_ready (s : State) (a : Nat) (v : Byte) :
    (s.putSwap a v).ready = s.ready := rfl
@[simp] theorem State.putSwap_nframes (s : State) (a : Nat) (v : Byte) :
    (s.putSwap a v).nframes = s.nframes := rfl
@[simp] theorem State.putSwap_nslots (s : State) (a : Nat) (v : Byte) :
    (s.putSwap a v).nslots = s.nslots := rfl
@[simp] theorem State.putSwap_phys (s : State) (a : Nat) (v : Byte) :
    (s.putSwap a v).phys = s.phys := rfl
@[simp] theorem State.putSwap_swap (s : State) (a : Nat) (v : Byte) :
    (s.putSwap a v).swap = s.swap.write a v := rfl
@[simp] theorem State.putSwap_fused (s : State) (a : Nat) (v : Byte) :
    (s.putSwap a v).fused = s.fused := rfl
@[simp] theorem State.putSwap_sused (s : State) (a : Nat) (v : Byte) :
    (s.putSwap a v).sused = s.sused := rfl
@[simp] theorem State.putSwap_queue (s : State) (a : Nat) (v : Byte) :
    (s.putSwap a v).queue = s.queue := rfl
@[simp] theorem State.putSwap_procs (s : State) (a : Nat) (v : Byte) :
    (s.putSwap a v).procs = s.procs := rfl
@[simp] theorem State.putSwap_faulted (s : State) (a : Nat) (v : Byte) :
    (s.putSwap a v).faulted = s.faulted := rfl
@[simp] theorem State.putSwap_npid (s : State) (a : Nat) (v : Byte) :
    (s.putSwap a v).npid = s.npid := rfl
@[simp] theorem State.putSwap_commands (s : State) (a : Nat) (v : Byte) :
    (s.putSwap a v).commands = s.commands := rfl
@[simp] theorem State.putSwap_response (s : State) (a : Nat) (v : Byte) :
    (s.putSwap a v).response = s.response := rfl
@[simp] theorem State.putSwap_draws (s : State) (a : Nat) (v : Byte) :
    (s.putSwap a v).draws = s.draws := rfl
@[simp] theorem State.putSwap_frameUsed (s : State) (a : Nat) (v : Byte) (k : Nat) :
    (s.putSwap a v).frameUsed k = s.frameUsed k := rfl
@[simp] theorem State.putSwap_slotUsed (s : State) (a : Nat) (v : Byte) (k : Nat) :
    (s.putSwap a v).slotUsed k = s.slotUsed k := rfl
@[simp] theorem State.putSwap_pdbr (s : State) (a : Nat) (v : Byte) (k : Nat) :
    (s.putSwap a v).pdbr k = s.pdbr k := rfl
@[simp] theorem State.putSwap_pcb (s : State) (a : Nat) (v : Byte) (k : Nat) :
    (s.putSwap a v).pcb k = s.pcb k := rfl
@[simp] theorem State.putSwap_entryFrame (s : State) (a : Nat) (v : Byte) (k : Nat) :
    (s.putSwap a v).entryFrame k = s.entryFrame k := rfl
@[simp] theorem State.putSwap_entrySlot (s : State) (a : Nat) (v : Byte) (k : Nat) :
    (s.putSwap a v).entrySlot k = s.entrySlot k := rfl

/-! ### afterDraws -/

@[simp] theorem State.afterDraws_ready (s : State) :
    (s.afterDraws).ready = s.ready := rfl
@[simp] theorem State.afterDraws_nframes (s : State) :
    (s.afterDraws).nframes = s.nframes := rfl
@[simp] theorem State.afterDraws_nslots (s : State) :
    (s.afterDraws).nslots = s.nslots := rfl
@[simp] theorem State.afterDraws_phys (s : State) :
    (s.afterDraws).phys = s.phys := rfl
@[simp] theorem State.afterDraws_swap (s : State) :
    (s.afterDraws).swap = s.swap := rfl
@[simp] theorem State.afterDraws_fused (s : State) :
    (s.afterDraws).fused = s.fused := rfl
@[simp] theorem State.afterDraws_sused (s : State) :
    (s.afterDraws).sused = s.sused := rfl
@[simp] theorem State.afterDraws_queue (s : State) :
    (s.afterDraws).queue = s.queue := rfl
@[simp] theorem State.afterDraws_procs (s : State) :
    (s.afterDraws).procs = s.procs := rfl
@[simp] theorem State.afterDraws_faulted (s : State) :
    (s.afterDraws).faulted = s.faulted := rfl
@[simp] theorem State.afterDraws_npid (s : State) :
    (s.afterDraws).npid = s.npid := rfl
@[simp] theorem State.afterDraws_commands (s : State) :
    (s.afterDraws).commands = s.commands := rfl
@[simp] theorem State.afterDraws_response (s : State) :
    (s.afterDraws).response = s.response := rfl
@[simp] theorem State.afterDraws_draws (s : State) :
    (s.afterDraws).draws = s.draws + 4 := rfl
@[simp] theorem State.afterDraws_frameUsed (s : State) (k : Nat) :
    (s.afterDraws).frameUsed k = s.frameUsed k := rfl
@[simp] theorem State.afterDraws_slotUsed (s : State) (k : Nat) :
    (s.afterDraws).slotUsed k = s.slotUsed k := rfl
@[simp] theorem State.afterDraws_pdbr (s : State) (k : Nat) :
    (s.afterDraws).pdbr k = s.pdbr k := rfl
@[simp] theorem State.afterDraws_pcb (s : State) (k : Nat) :
    (s.afterDraws).pcb k = s.pcb k := rfl
@[simp] theorem State.afterDraws_entryFrame (s : State) (k : Nat) :
    (s.afterDraws).entryFrame k = s.entryFrame k := rfl
@[simp] theorem State.afterDraws_entrySlot (s : State) (k : Nat) :
    (s.afterDraws).entrySlot k = s.entrySlot k := rfl

/-! ### putProc -/

@[simp] theorem State.putProc_ready (s : State) (p c r : Nat) :
    (s.putProc p c r).ready = s.ready := rfl
@[simp] theorem State.putProc_nframes (s : State) (p c r : Nat) :
    (s.putProc p c r).nframes = s.nframes := rfl
@[simp] theorem State.putProc_nslots (s : State) (p c r : Nat) :
    (s.putProc p c r).nslots = s.nslots := rfl
@[simp] theorem State.putProc_phys (s : State) (p c r : Nat) :
    (s.putProc p c r).phys = s.phys := rfl
@[simp] theorem State.putProc_swap (s : State) (p c r : Nat) :
    (s.putProc p c r).swap = s.swap := rfl
@[simp] theorem State.putProc_fused (s : State) (p c r : Nat) :
    (s.putProc p c r).fused = s.fused := rfl
@[simp] theorem State.putProc_sused (s : State) (p c r : Nat) :
    (s.putProc p c r).sused = s.sused := rfl
@[simp] theorem State.putProc_queue (s : State) (p c r : Nat) :
    (s.putProc p c r).queue = s.queue := rfl
@[simp] theorem State.putProc_procs (s : State) (p c r : Nat) :
    (s.putProc p c r).procs = s.procs.set p { pdbr := BitVec.ofNat 8 r, pcb := BitVec.ofNat 8 c } := rfl
@[simp] theorem State.putProc_faulted (s : State) (p c r : Nat) :
    (s.putProc p c r).faulted = s.faulted := rfl
@[simp] theorem State.putProc_npid (s : State) (p c r : Nat) :
    (s.putProc p c r).npid = s.npid := rfl
@[simp] theorem State.putProc_commands (s : State) (p c r : Nat) :
    (s.putProc p c r).commands = s.commands := rfl
@[simp] theorem State.putProc_response (s : State) (p c r : Nat) :
    (s.putProc p c r).response = s.response := rfl
@[simp] theorem State.putProc_draws (s : State) (p c r : Nat) :
    (s.putProc p c r).draws = s.draws := rfl
@[simp] theorem State.putProc_frameUsed (s : State) (p c r : Nat) (k : Nat) :
    (s.putProc p c r).frameUsed k = s.frameUsed k := rfl
@[simp] theorem State.putProc_slotUsed (s : State) (p c r : Nat) (k : Nat) :
    (s.putProc p c r).slotUsed k = s.slotUsed k := rfl
@[simp] theorem State.putProc_entryFrame (s : State) (p c r : Nat) (k : Nat) :
    (s.putProc p c r).entryFrame k = s.entryFrame k := rfl
@[simp] theorem State.putProc_entrySlot (s : State) (p c r : Nat) (k : Nat) :
    (s.putProc p c r).entrySlot k = s.entrySlot k := rfl

/-! ### putFrame -/

@[simp] theorem State.putFrame_ready (s : State) (f : Nat) (u : Bool) :
    (s.putFrame f u).ready = s.ready := rfl
@[simp] theorem State.putFrame_nframes (s : State) (f : Nat) (u : Bool) :
    (s.putFrame f u).nframes = s.nframes := rfl
@[simp] theorem State.putFrame_nslots (s : State) (f : Nat) (u : Bool) :
    (s.putFrame f u).nslots = s.nslots := rfl
@[simp] theorem State.putFrame_phys (s : State) (f : Nat) (u : Bool) :
    (s.putFrame f u).phys = s.phys := rfl
@[simp] theorem State.putFrame_swap (s : State) (f : Nat) (u : Bool) :
    (s.putFrame f u).swap = s.swap := rfl
@[simp] theorem State.putFrame_fused (s : State) (f : Nat) (u : Bool) :
    (s.putFrame f u).fused = s.fused.put f u := rfl
@[simp] theorem State.putFrame_sused (s : State) (f : Nat) (u : Bool) :
    (s.putFrame f u).sused = s.sused := rfl
@[simp] theorem State.putFrame_queue (s : State) (f : Nat) (u : Bool) :
    (s.putFrame f u).queue = s.queue := rfl
@[simp] theorem State.putFrame_procs (s : State) (f : Nat) (u : Bool) :
    (s.putFrame f u).procs = s.procs := rfl
@[simp] theorem State.putFrame_faulted (s : State) (f : Nat) (u : Bool) :
    (s.putFrame f u).faulted = s.faulted := rfl
@[simp] theorem State.putFrame_npid (s : State) (f : Nat) (u : Bool) :
    (s.putFrame f u).npid = s.npid := rfl
@[simp] theorem State.putFrame_commands (s : State) (f : Nat) (u : Bool) :
    (s.putFrame f u).commands = s.commands := rfl
@[simp] theorem State.putFrame_response (s : State) (f : Nat) (u : Bool) :
    (s.putFrame f u).response = s.response := rfl
@[simp] theorem State.putFrame_draws (s : State) (f : Nat) (u : Bool) :
    (s.putFrame f u).draws = s.draws := rfl
@[simp] theorem State.putFrame_slotUsed (s : State) (f : Nat) (u : Bool) (k : Nat) :
    (s.putFrame f u).slotUsed k = s.slotUsed k := rfl
@[simp] theorem State.putFrame_pdbr (s : State) (f : Nat) (u : Bool) (k : Nat) :
    (s.putFrame f u).pdbr k = s.pdbr k := rfl
@[simp] theorem State.putFrame_pcb (s : State) (f : Nat) (u : Bool) (k : Nat) :
    (s.putFrame f u).pcb k = s.pcb k := rfl
@[simp] theorem State.putFrame_entryFrame (s : State) (f : Nat) (u : Bool) (k : Nat) :
    (s.putFrame f u).entryFrame k = s.entryFrame k := rfl
@[simp] theorem State.putFrame_entrySlot (s : State) (f : Nat) (u : Bool) (k : Nat) :
    (s.putFrame f u).entrySlot k = s.entrySlot k := rfl

/-! ### putSlot -/

@[simp] theorem State.putSlot_ready (s : State) (i : Nat) (u : Bool) :
    (s.putSlot i u).ready = s.ready := rfl
@[simp] theorem State.putSlot_nframes (s : State) (i : Nat) (u : Bool) :
    (s.putSlot i u).nframes = s.nframes := rfl
@[simp] theorem State.putSlot_nslots (s : State) (i : Nat) (u : Bool) :
    (s.putSlot i u).nslots = s.nslots := rfl
@[simp] theorem State.putSlot_phys (s : State) (i : Nat) (u : Bool) :
    (s.putSlot i u).phys = s.phys := rfl
@[simp] theorem State.putSlot_swap (s : State) (i : Nat) (u : Bool) :
    (s.putSlot i u).swap = s.swap := rfl
@[simp] theorem State.putSlot_fused (s : State) (i : Nat) (u : Bool) :
    (s.putSlot i u).fused = s.fused := rfl
@[simp] theorem State.putSlot_sused (s : State) (i : Nat) (u : Bool) :
    (s.putSlot i u).sused = s.sused.put i u := rfl
@[simp] theorem State.putSlot_queue (s : State) (i : Nat) (u : Bool) :
    (s.putSlot i u).queue = s.queue := rfl
@[simp] theorem State.putSlot_procs (s : State) (i : Nat) (u : Bool) :
    (s.putSlot i u).procs = s.procs := rfl
@[simp] theorem State.putSlot_faulted (s : State) (i : Nat) (u : Bool) :
    (s.putSlot i u).faulted = s.faulted := rfl
@[simp] theorem State.putSlot_npid (s : State) (i : Nat) (u : Bool) :
    (s.putSlot i u).npid = s.npid := rfl
@[simp] theorem State.putSlot_commands (s : State) (i : Nat) (u : Bool) :
    (s.putSlot i u).commands = s.commands := rfl
@[simp] theorem State.putSlot_response (s : State) (i : Nat) (u : Bool) :
    (s.putSlot i u).response = s.response := rfl
@[simp] theorem State.putSlot_draws (s : State) (i : Nat) (u : Bool) :
    (s.putSlot i u).draws = s.draws := rfl
@[simp] theorem State.putSlot_frameUsed (s : State) (i : Nat) (u : Bool) (k : Nat) :
    (s.putSlot i u).frameUsed k = s.frameUsed k := rfl
@[simp] theorem State.putSlot_pdbr (s : State) (i : Nat) (u : Bool) (k : Nat) :
    (s.putSlot i u).pdbr k = s.pdbr k := rfl
@[simp] theorem State.putSlot_pcb (s : State) (i : Nat) (u : Bool) (k : Nat) :
    (s.putSlot i u).pcb k = s.pcb k := rfl
@[simp] theorem State.putSlot_entryFrame (s : State) (i : Nat) (u : Bool) (k : Nat) :
    (s.putSlot i u).entryFrame k = s.entryFrame k := rfl
@[simp] theorem State.putSlot_entrySlot (s : State) (i : Nat) (u : Bool) (k : Nat) :
    (s.putSlot i u).entrySlot k = s.entrySlot k := rfl

/-! ### pushQueue -/

@[simp] theorem State.pushQueue_ready (s : State) (loc : Nat) :
    (s.pushQueue loc).ready = s.ready := rfl
@[simp] theorem State.pushQueue_nframes (s : State) (loc : Nat) :
    (s.pushQueue loc).nframes = s.nframes := rfl
@[simp] theorem State.pushQueue_nslots (s : State) (loc : Nat) :
    (s.pushQueue loc).nslots = s.nslots := rfl
@[simp] theorem State.pushQueue_phys (s : State) (loc : Nat) :
    (s.pushQueue loc).phys = s.phys := rfl
@[simp] theorem State.pushQueue_swap (s : State) (loc : Nat) :
    (s.pushQueue loc).swap = s.swap := rfl
@[simp] theorem State.pushQueue_fused (s : State) (loc : Nat) :
    (s.pushQueue loc).fused = s.fused := rfl
@[simp] theorem State.pushQueue_sused (s : State) (loc : Nat) :
    (s.pushQueue loc).sused = s.sused := rfl
@[simp] theorem State.pushQueue_queue (s : State) (loc : Nat) :
    (s.pushQueue loc).queue = s.queue ++ [BitVec.ofNat 8 loc] := rfl
@[simp] theorem State.pushQueue_procs (s : State) (loc : Nat) :
    (s.pushQueue loc).procs = s.procs := rfl
@[simp] theorem State.pushQueue_faulted (s : State) (loc : Nat) :
    (s.pushQueue loc).faulted = s.faulted := rfl
@[simp] theorem State.pushQueue_npid (s : State) (loc : Nat) :
    (s.pushQueue loc).npid = s.npid := rfl
@[simp] theorem State.pushQueue_commands (s : State) (loc : Nat) :
    (s.pushQueue loc).commands = s.commands := rfl
@[simp] theorem State.pushQueue_response (s : State) (loc : Nat) :
    (s.pushQueue loc).response = s.response := rfl
@[simp] theorem State.pushQueue_draws (s : State) (loc : Nat) :
    (s.pushQueue loc).draws = s.draws := rfl
@[simp] theorem State.pushQueue_frameUsed (s : State) (loc : Nat) (k : Nat) :
    (s.pushQueue loc).frameUsed k = s.frameUsed k := rfl
@[simp] theorem State.pushQueue_slotUsed (s : State) (loc : Nat) (k : Nat) :
    (s.pushQueue loc).slotUsed k = s.slotUsed k := rfl
@[simp] theorem State.pushQueue_pdbr (s : State) (loc : Nat) (k : Nat) :
    (s.pushQueue loc).pdbr k = s.pdbr k := rfl
@[simp] theorem State.pushQueue_pcb (s : State) (loc : Nat) (k : Nat) :
    (s.pushQueue loc).pcb k = s.pcb k := rfl
@[simp] theorem State.pushQueue_entryFrame (s : State) (loc : Nat) (k : Nat) :
    (s.pushQueue loc).entryFrame k = s.entryFrame k := rfl
@[simp] theorem State.pushQueue_entrySlot (s : State) (loc : Nat) (k : Nat) :
    (s.pushQueue loc).entrySlot k = s.entrySlot k := rfl

/-! ### dropFront -/

@[simp] theorem State.dropFront_ready (s : State) :
    (s.dropFront).ready = s.ready := rfl
@[simp] theorem State.dropFront_nframes (s : State) :
    (s.dropFront).nframes = s.nframes := rfl
@[simp] theorem State.dropFront_nslots (s : State) :
    (s.dropFront).nslots = s.nslots := rfl
@[simp] theorem State.dropFront_phys (s : State) :
    (s.dropFront).phys = s.phys := rfl
@[simp] theorem State.dropFront_swap (s : State) :
    (s.dropFront).swap = s.swap := rfl
@[simp] theorem State.dropFront_fused (s : State) :
    (s.dropFront).fused = s.fused := rfl
@[simp] theorem State.dropFront_sused (s : State) :
    (s.dropFront).sused = s.sused := rfl
@[simp] theorem State.dropFront_queue (s : State) :
    (s.dropFront).queue = s.queue.tail := rfl
@[simp] theorem State.dropFront_procs (s : State) :
    (s.dropFront).procs = s.procs := rfl
@[simp] theorem State.dropFront_faulted (s : State) :
    (s.dropFront).faulted = s.faulted := rfl
@[simp] theorem State.dropFront_npid (s : State) :
    (s.dropFront).npid = s.npid := rfl
@[simp] theorem State.dropFront_commands (s : State) :
    (s.dropFront).commands = s.commands := rfl
@[simp] theorem State.dropFront_response (s : State) :
    (s.dropFront).response = s.response := rfl
@[simp] theorem State.dropFront_draws (s : State) :
    (s.dropFront).draws = s.draws := rfl
@[simp] theorem State.dropFront_frameUsed (s : State) (k : Nat) :
    (s.dropFront).frameUsed k = s.frameUsed k := rfl
@[simp] theorem State.dropFront_slotUsed (s : State) (k : Nat) :
    (s.dropFront).slotUsed k = s.slotUsed k := rfl
@[simp] theorem State.dropFront_pdbr (s : State) (k : Nat) :
    (s.dropFront).pdbr k = s.pdbr k := rfl
@[simp] theorem State.dropFront_pcb (s : State) (k : Nat) :
    (s.dropFront).pcb k = s.pcb k := rfl
@[simp] theorem State.dropFront_entryFrame (s : State) (k : Nat) :
    (s.dropFront).entryFrame k = s.entryFrame k := rfl
@[simp] theorem State.dropFront_entrySlot (s : State) (k : Nat) :
    (s.dropFront).entrySlot k = s.entrySlot k := rfl

/-! ### issue -/

@[simp] theorem State.issue_ready (s : State) (rest : List CommandWord) :
    (s.issue rest).ready = s.ready := rfl
@[simp] theorem State.issue_nframes (s : State) (rest : List CommandWord) :
    (s.issue rest).nframes = s.nframes := rfl
@[simp] theorem State.issue_nslots (s : State) (rest : List CommandWord) :
    (s.issue rest).nslots = s.nslots := rfl
@[simp] theorem State.issue_phys (s : State) (rest : List CommandWord) :
    (s.issue rest).phys = s.phys := rfl
@[simp] theorem State.issue_swap (s : State) (rest : List CommandWord) :
    (s.issue rest).swap = s.swap := rfl
@[simp] theorem State.issue_fused (s : State) (rest : List CommandWord) :
    (s.issue rest).fused = s.fused := rfl
@[simp] theorem State.issue_sused (s : State) (rest : List CommandWord) :
    (s.issue rest).sused = s.sused := rfl
@[simp] theorem State.issue_queue (s : State) (rest : List CommandWord) :
    (s.issue rest).queue = s.queue := rfl
@[simp] theorem State.issue_procs (s : State) (rest : List CommandWord) :
    (s.issue rest).procs = s.procs := rfl
@[simp] theorem State.issue_faulted (s : State) (rest : List CommandWord) :
    (s.issue rest).faulted = s.faulted := rfl
@[simp] theorem State.issue_npid (s : State) (rest : List CommandWord) :
    (s.issue rest).npid = s.npid := rfl
@[simp] theorem State.issue_commands (s : State) (rest : List CommandWord) :
    (s.issue rest).commands = rest := rfl
@[simp] theorem State.issue_response (s : State) (rest : List CommandWord) :
    (s.issue rest).response = none := rfl
@[simp] theorem State.issue_draws (s : State) (rest : List CommandWord) :
    (s.issue rest).draws = s.draws := rfl
@[simp] theorem State.issue_frameUsed (s : State) (rest : List CommandWord) (k : Nat) :
    (s.issue rest).frameUsed k = s.frameUsed k := rfl
@[simp] theorem State.issue_slotUsed (s : State) (rest : List CommandWord) (k : Nat) :
    (s.issue rest).slotUsed k = s.slotUsed k := rfl
@[simp] theorem State.issue_pdbr (s : State) (rest : List CommandWord) (k : Nat) :
    (s.issue rest).pdbr k = s.pdbr k := rfl
@[simp] theorem State.issue_pcb (s : State) (rest : List CommandWord) (k : Nat) :
    (s.issue rest).pcb k = s.pcb k := rfl
@[simp] theorem State.issue_entryFrame (s : State) (rest : List CommandWord) (k : Nat) :
    (s.issue rest).entryFrame k = s.entryFrame k := rfl
@[simp] theorem State.issue_entrySlot (s : State) (rest : List CommandWord) (k : Nat) :
    (s.issue rest).entrySlot k = s.entrySlot k := rfl

/-! ### withNextCommand -/

@[simp] theorem State.withNextCommand_ready (s : State) (w : CommandWord) :
    (s.withNextCommand w).ready = s.ready := rfl
@[simp] theorem State.withNextCommand_nframes (s : State) (w : CommandWord) :
    (s.withNextCommand w).nframes = s.nframes := rfl
@[simp] theorem State.withNextCommand_nslots (s : State) (w : CommandWord) :
    (s.withNextCommand w).nslots = s.nslots := rfl
@[simp] theorem State.withNextCommand_phys (s : State) (w : CommandWord) :
    (s.withNextCommand w).phys = s.phys := rfl
@[simp] theorem State.withNextCommand_swap (s : State) (w : CommandWord) :
    (s.withNextCommand w).swap = s.swap := rfl
@[simp] theorem State.withNextCommand_fused (s : State) (w : CommandWord) :
    (s.withNextCommand w).fused = s.fused := rfl
@[simp] theorem State.withNextCommand_sused (s : State) (w : CommandWord) :
    (s.withNextCommand w).sused = s.sused := rfl
@[simp] theorem State.withNextCommand_queue (s : State) (w : CommandWord) :
    (s.withNextCommand w).queue = s.queue := rfl
@[simp] theorem State.withNextCommand_procs (s : State) (w : CommandWord) :
    (s.withNextCommand w).procs = s.procs := rfl
@[simp] theorem State.withNextCommand_faulted (s : State) (w : CommandWord) :
    (s.withNextCommand w).faulted = s.faulted := rfl
@[simp] theorem State.withNextCommand_npid (s : State) (w : CommandWord) :
    (s.withNextCommand w).npid = s.npid := rfl
@[simp] theorem State.withNextCommand_commands (s : State) (w : CommandWord) :
    (s.withNextCommand w).commands = w :: s.commands := rfl
@[simp] theorem State.withNextCommand_response (s : State) (w : CommandWord) :
    (s.withNextCommand w).response = s.response := rfl
@[simp] theorem State.withNextCommand_draws (s : State) (w : CommandWord) :
    (s.withNextCommand w).draws = s.draws := rfl
@[simp] theorem State.withNextCommand_frameUsed (s : State) (w : CommandWord) (k : Nat) :
    (s.withNextCommand w).frameUsed k = s.frameUsed k := rfl
@[simp] theorem State.withNextCommand_slotUsed (s : State) (w : CommandWord) (k : Nat) :
    (s.withNextCommand w).slotUsed k = s.slotUsed k := rfl
@[simp] theorem State.withNextCommand_pdbr (s : State) (w : CommandWord) (k : Nat) :
    (s.withNextCommand w).pdbr k = s.pdbr k := rfl
@[simp] theorem State.withNextCommand_pcb (s : State) (w : CommandWord) (k : Nat) :
    (s.withNextCommand w).pcb k = s.pcb k := rfl
@[simp] theorem State.withNextCommand_entryFrame (s : State) (w : CommandWord) (k : Nat) :
    (s.withNextCommand w).entryFrame k = s.entryFrame k := rfl
@[simp] theorem State.withNextCommand_entrySlot (s : State) (w : CommandWord) (k : Nat) :
    (s.withNextCommand w).entrySlot k = s.entrySlot k := rfl

/-! ### initialise -/

@[simp] theorem State.initialise_ready (s : State) (nf ns : Nat) :
    (s.initialise nf ns).ready = true := rfl
@[simp] theorem State.initialise_nframes (s : State) (nf ns : Nat) :
    (s.initialise nf ns).nframes = nf := rfl
@[simp] theorem State.initialise_nslots (s : State) (nf ns : Nat) :
    (s.initialise nf ns).nslots = ns := rfl
@[simp] theorem State.initialise_phys (s : State) (nf ns : Nat) :
    (s.initialise nf ns).phys = Memory.zeroed (Config.frameBytes * nf) := rfl
@[simp] theorem State.initialise_swap (s : State) (nf ns : Nat) :
    (s.initialise nf ns).swap = Memory.zeroed (Config.frameBytes * ns) := rfl
@[simp] theorem State.initialise_fused (s : State) (nf ns : Nat) :
    (s.initialise nf ns).fused = List.replicate (nf - 1) false := rfl
@[simp] theorem State.initialise_sused (s : State) (nf ns : Nat) :
    (s.initialise nf ns).sused = List.replicate (ns - 1) false := rfl
@[simp] theorem State.initialise_queue (s : State) (nf ns : Nat) :
    (s.initialise nf ns).queue = [] := rfl
@[simp] theorem State.initialise_procs (s : State) (nf ns : Nat) :
    (s.initialise nf ns).procs = List.replicate s.npid { pdbr := 0#8, pcb := 0#8 } := rfl
@[simp] theorem State.initialise_faulted (s : State) (nf ns : Nat) :
    (s.initialise nf ns).faulted = s.faulted := rfl
@[simp] theorem State.initialise_npid (s : State) (nf ns : Nat) :
    (s.initialise nf ns).npid = s.npid := rfl
@[simp] theorem State.initialise_commands (s : State) (nf ns : Nat) :
    (s.initialise nf ns).commands = s.commands := rfl
@[simp] theorem State.initialise_response (s : State) (nf ns : Nat) :
    (s.initialise nf ns).response = s.response := rfl
@[simp] theorem State.initialise_draws (s : State) (nf ns : Nat) :
    (s.initialise nf ns).draws = s.draws := rfl

end Sys2Proof.Machine
end

