-- ==== Sys2Proof/Laws/Memory.lean ====
section
/-!
SUPPORT. The laws of an arena and of an allocator bitmap: a read after a write, the canonical form, and
the first free index.
-/

namespace Sys2Proof.Machine

/-! ### Arenas -/

/-- A byte can be read exactly at the listed addresses. -/
theorem Memory.read_isSome_iff (m : Memory) (a : Nat) :
    (m.read a).isSome = true ↔ a ∈ m.map Prod.fst := by
  induction m with
  | nil => simp [Memory.read]
  | cons c rest ih =>
    simp only [Memory.read, List.map_cons, List.mem_cons]
    by_cases h : c.1 = a
    · simp [h]
    · rw [if_neg h, ih]
      exact ⟨.inr, fun hm => hm.resolve_left fun he => h he.symm⟩

/-- A write changes no address, so no byte comes to exist or ceases to. -/
@[simp] theorem Memory.addrs_write (m : Memory) (a : Nat) (v : Byte) :
    (m.write a v).map Prod.fst = m.map Prod.fst := by
  simp only [Memory.write, List.map_map]
  refine List.map_congr_left fun c _ => ?_
  by_cases h : c.1 = a <;> simp [h]

/-- Reading the byte just written. -/
theorem Memory.read_write_same {m : Memory} {a : Nat} (h : (m.read a).isSome = true) (v : Byte) :
    (m.write a v).read a = some v := by
  induction m with
  | nil => simp [Memory.read] at h
  | cons c rest ih =>
    by_cases hc : c.1 = a
    · simp [Memory.write, Memory.read, hc]
    · simp only [Memory.read, if_neg hc] at h
      have := ih h
      simp only [Memory.write] at this
      simp [Memory.write, Memory.read, hc, this]

/-- A write leaves every other address alone. -/
theorem Memory.read_write_other (m : Memory) {a b : Nat} (h : b ≠ a) (v : Byte) :
    (m.write a v).read b = m.read b := by
  induction m with
  | nil => rfl
  | cons c rest ih =>
    have hab : a ≠ b := fun e => h e.symm
    simp only [Memory.write] at ih
    by_cases hc : c.1 = a
    · have : c.1 ≠ b := fun e => h (e.symm.trans hc)
      simp [Memory.write, Memory.read, hc, hab, ih]
    · simp [Memory.write, Memory.read, hc, ih]

/-- The byte an address reads as after a write, where it existed. -/
theorem Memory.read_write {m : Memory} {a b : Nat} (h : (m.read a).isSome = true) (v : Byte) :
    (m.write a v).read b = if b = a then some v else m.read b := by
  split
  · next e => rw [e, Memory.read_write_same h]
  · next e => rw [Memory.read_write_other m e]

@[simp] theorem Memory.addrs_zeroed (n : Nat) : (Memory.zeroed n).map Prod.fst = List.range n := by
  simp [Memory.zeroed, Function.comp_def]

/-- An arena as INIT leaves it. -/
theorem Memory.read_zeroed (n a : Nat) :
    (Memory.zeroed n).read a = if a < n then some 0x00#8 else none := by
  have key : ∀ l : List Nat, Memory.read (l.map fun k => (k, 0x00#8)) a =
      if a ∈ l then some 0x00#8 else none := by
    intro l
    induction l with
    | nil => simp [Memory.read]
    | cons k l ih =>
      simp only [List.map_cons, Memory.read, ih, List.mem_cons]
      by_cases h : k = a
      · simp [h]
      · have : a ≠ k := fun e => h e.symm
        simp [h, this]
  rw [Memory.zeroed, key]
  simp

/-- Every operation on an arena keeps the canonical form. -/
theorem Memory.wf_write {m : Memory} (h : m.wf) (a : Nat) (v : Byte) : (m.write a v).wf := by
  rw [Memory.wf, Memory.addrs_write]; exact h

theorem Memory.wf_zeroed (n : Nat) : (Memory.zeroed n).wf := by
  rw [Memory.wf, Memory.addrs_zeroed]; exact List.pairwise_lt_range

/-- The arenas of a well-shaped state have the canonical form. -/
theorem State.WellShaped.phys_wf {s : State} (h : s.WellShaped) : s.phys.wf := by
  rw [Memory.wf, h.phys_addrs]; exact List.pairwise_lt_range

theorem State.WellShaped.swap_wf {s : State} (h : s.WellShaped) : s.swap.wf := by
  rw [Memory.wf, h.swap_addrs]; exact List.pairwise_lt_range

theorem reset_memory_wf : State.reset.phys.wf ∧ State.reset.swap.wf := by decide

/-- In a well-shaped state a byte of PHYS exists exactly below 4*NFRAMES (R27). -/
theorem State.WellShaped.phys_exists {s : State} (h : s.WellShaped) (a : Nat) :
    (s.phys.read a).isSome = true ↔ a < Config.frameBytes * s.nframes := by
  rw [Memory.read_isSome_iff, h.phys_addrs, List.mem_range]

/-- In a well-shaped state a byte of SWAP exists exactly below 4*NSLOTS (R28). -/
theorem State.WellShaped.swap_exists {s : State} (h : s.WellShaped) (a : Nat) :
    (s.swap.read a).isSome = true ↔ a < Config.frameBytes * s.nslots := by
  rw [Memory.read_isSome_iff, h.swap_addrs, List.mem_range]

/-! ### Bitmaps -/

@[simp] theorem Bitmap.length_put (bits : Bitmap) (i : Nat) (u : Bool) :
    (bits.put i u).length = bits.length := by
  simp [Bitmap.put]

/-- A bit after a bit has been set; index 0 has no bit. -/
theorem Bitmap.bit_put (bits : Bitmap) {i : Nat} (hi : 1 ≤ i) (u : Bool) (j : Nat) :
    (bits.put i u).bit j = if j = i ∧ i ≤ bits.length then some u else bits.bit j := by
  obtain ⟨k, rfl⟩ : ∃ k, i = k + 1 := ⟨i - 1, by omega⟩
  cases j with
  | zero => simp [Bitmap.bit]
  | succ n =>
    simp only [Bitmap.bit, Bitmap.put, Nat.add_sub_cancel, List.getElem?_set]
    by_cases h : k = n
    · subst h
      by_cases hl : k < bits.length
      · simp [hl]
      · have : ¬ k + 1 ≤ bits.length := by omega
        simp [hl, this]
    · have : ¬ n = k := fun e => h e.symm
      simp [h, this]

/-- Within range, every index has a bit. -/
theorem Bitmap.bit_exists {bits : Bitmap} {n i : Nat} (hl : bits.length = n - 1) (h1 : 1 ≤ i)
    (hn : i < n) : ∃ u, bits.bit i = some u := by
  obtain ⟨k, rfl⟩ : ∃ k, i = k + 1 := ⟨i - 1, by omega⟩
  exact ⟨bits[k]'(by omega), by simp [Bitmap.bit]⟩

/-- Only 1 .. n-1 have bits. -/
theorem Bitmap.bit_inside {bits : Bitmap} {n i : Nat} {u : Bool} (hl : bits.length = n - 1)
    (h : bits.bit i = some u) : 1 ≤ i ∧ i < n := by
  cases i with
  | zero => simp [Bitmap.bit] at h
  | succ k =>
    simp only [Bitmap.bit, List.getElem?_eq_some_iff] at h
    obtain ⟨hk, _⟩ := h
    omega

/-- First fit, ascending (R120, R127): the answer is free, in range, and everything below is not
free. -/
theorem Bitmap.firstFree_some {bits : Bitmap} {n i : Nat} (h : bits.firstFree n = some i) :
    1 ≤ i ∧ i < n ∧ bits.bit i = some false ∧
      ∀ j, 1 ≤ j → j < i → bits.bit j ≠ some false := by
  unfold Bitmap.firstFree at h
  rw [List.find?_range'_eq_some] at h
  obtain ⟨hb, hm, hlow⟩ := h
  simp only [List.mem_range'_1] at hm
  refine ⟨hm.1, by omega, by simpa using hb, fun j hj hji hf => ?_⟩
  have := hlow j hj hji
  simp [hf] at this

/-- Exhaustion: no index in range is free. -/
theorem Bitmap.firstFree_none {bits : Bitmap} {n : Nat} :
    bits.firstFree n = none ↔ ∀ j, 1 ≤ j → j < n → bits.bit j ≠ some false := by
  unfold Bitmap.firstFree
  rw [List.find?_eq_none]
  simp only [List.mem_range'_1, beq_iff_eq]
  exact ⟨fun h j h1 hn => h j ⟨h1, by omega⟩, fun h j hj => h j hj.1 (by omega)⟩

/-- A free index in range makes the search succeed. -/
theorem Bitmap.firstFree_of_free {bits : Bitmap} {n i : Nat} (h1 : 1 ≤ i) (hn : i < n)
    (hf : bits.bit i = some false) : ∃ g, bits.firstFree n = some g := by
  cases h : bits.firstFree n with
  | some g => exact ⟨g, rfl⟩
  | none => exact absurd hf (Bitmap.firstFree_none.1 h i h1 hn)

end Sys2Proof.Machine
end

