-- ==== Sys2Proof/Laws/Ops.lean ====
section
/-!
SUPPORT. One lemma for each shared operation that says once what it does where its operands exist, and
the shape each update keeps. Later proofs cite these and unfold no operation.
-/

namespace Sys2Proof.Machine

/-! ### Results -/

@[simp] theorem Result.bind_ok {α β : Type} (a : α) (s : State) (f : α → State → Result β) :
    (Result.ok a s).bind f = f a s := rfl

@[simp] theorem Result.bind_err {α β : Type} (e : Status) (s : State) (f : α → State → Result β) :
    (Result.err e s : Result α).bind f = .err e s := rfl

@[simp] theorem Result.bind_raised {α β : Type} (r : Fault) (s : State)
    (f : α → State → Result β) : (Result.raised r s : Result α).bind f = .raised r s := rfl

@[simp] theorem Result.answer_ok (b : Byte) (s : State) :
    (Result.ok b s).answer = .next (s.respond .ok 0x0#4 b) := rfl

@[simp] theorem Result.answer_err (e : Status) (s : State) :
    (Result.err e s : Result Byte).answer = .next (s.respond e 0x0#4 0x00#8) := rfl

@[simp] theorem Result.answer_raised (r : Fault) (s : State) :
    (Result.raised r s : Result Byte).answer = .fault r := rfl

/-- The READY check lets a command run (R251). -/
theorem whenReady_ready {s : State} (h : s.ready = true) (run : State → Answer) :
    whenReady s run = run s := if_pos h

/-- The READY check refuses a command before INIT (R251). -/
theorem whenReady_not_ready {s : State} (h : s.ready = false) (run : State → Answer) :
    whenReady s run = .next (s.respond .notInit 0x0#4 0x00#8) := by
  simp [whenReady, State.isReady, h, failWith]

/-! ### Bytes of the arenas -/

theorem readPhys_eq_ok {s : State} {a : Nat} {b : Byte} (h : s.phys.read a = some b) :
    readPhys a s = .ok b s := by
  simp [readPhys, h]

theorem writePhys_eq_ok {s : State} {a : Nat} (h : (s.phys.read a).isSome = true) (v : Byte) :
    writePhys a v s = .ok () (s.putPhys a v) := by
  obtain ⟨b, hb⟩ := Option.isSome_iff_exists.1 h
  simp [writePhys, hb]

theorem writeSwap_eq_ok {s : State} {a : Nat} (h : (s.swap.read a).isSome = true) (v : Byte) :
    writeSwap a v s = .ok () (s.putSwap a v) := by
  obtain ⟨b, hb⟩ := Option.isSome_iff_exists.1 h
  simp [writeSwap, hb]

/-- Successive bytes of an arena replaced. -/
def Memory.writeAll (m : Memory) (a : Nat) (bs : List Byte) : Memory :=
  match bs with
  | [] => m
  | b :: rest => Memory.writeAll (m.write a b) (a + 1) rest

/-- Successive bytes of PHYS replaced. -/
def State.putBytes (s : State) (a : Nat) (bs : List Byte) : State :=
  { s with phys := s.phys.writeAll a bs }

@[simp] theorem Memory.addrs_writeAll (m : Memory) (a : Nat) (bs : List Byte) :
    (m.writeAll a bs).map Prod.fst = m.map Prod.fst := by
  induction bs generalizing m a with
  | nil => rfl
  | cons b rest ih => simp [Memory.writeAll, ih]

/-- Reading after successive bytes have been replaced. -/
theorem Memory.read_writeAll {m : Memory} {a : Nat} {bs : List Byte}
    (h : ∀ k, k < bs.length → (m.read (a + k)).isSome = true) (x : Nat) :
    (m.writeAll a bs).read x =
      if a ≤ x ∧ x < a + bs.length then bs[x - a]? else m.read x := by
  induction bs generalizing m a with
  | nil =>
    have : ¬ (a ≤ x ∧ x < a + 0) := by omega
    simp [Memory.writeAll]
  | cons b rest ih =>
    have h0 : (m.read a).isSome = true := h 0 (by simp)
    have hrest : ∀ k, k < rest.length → ((m.write a b).read (a + 1 + k)).isSome = true := by
      intro k hk
      rw [Memory.read_write_other _ (by omega)]
      have := h (k + 1) (by simp only [List.length_cons]; omega)
      rwa [show a + 1 + k = a + (k + 1) by omega]
    simp only [Memory.writeAll, ih hrest, List.length_cons]
    by_cases hx : x = a
    · subst hx
      have : ¬ (x + 1 ≤ x ∧ x < x + 1 + rest.length) := by omega
      rw [if_neg this, Memory.read_write_same h0, if_pos (by omega)]
      simp
    · by_cases hin : a + 1 ≤ x ∧ x < a + 1 + rest.length
      · rw [if_pos hin, if_pos (by omega), show x - a = (x - (a + 1)) + 1 by omega]
        simp
      · rw [if_neg hin, if_neg (by omega), Memory.read_write_other _ hx]

theorem writeBytes_eq_ok {s : State} {a : Nat} {bs : List Byte}
    (h : ∀ k, k < bs.length → (s.phys.read (a + k)).isSome = true) :
    writeBytes a bs s = .ok () (s.putBytes a bs) := by
  induction bs generalizing s a with
  | nil => rfl
  | cons b rest ih =>
    have h0 : (s.phys.read a).isSome = true := h 0 (by simp)
    rw [writeBytes, writePhys_eq_ok h0, Result.bind_ok, ih]
    · rfl
    · intro k hk
      rw [State.putPhys_phys, Memory.read_write_other _ (by omega)]
      have := h (k + 1) (by simp only [List.length_cons]; omega)
      rwa [show a + 1 + k = a + (k + 1) by omega]

@[simp] theorem State.putBytes_ready (s : State) (a : Nat) (bs : List Byte) :
    (s.putBytes a bs).ready = s.ready := rfl
@[simp] theorem State.putBytes_nframes (s : State) (a : Nat) (bs : List Byte) :
    (s.putBytes a bs).nframes = s.nframes := rfl
@[simp] theorem State.putBytes_nslots (s : State) (a : Nat) (bs : List Byte) :
    (s.putBytes a bs).nslots = s.nslots := rfl
@[simp] theorem State.putBytes_phys (s : State) (a : Nat) (bs : List Byte) :
    (s.putBytes a bs).phys = s.phys.writeAll a bs := rfl
@[simp] theorem State.putBytes_swap (s : State) (a : Nat) (bs : List Byte) :
    (s.putBytes a bs).swap = s.swap := rfl
@[simp] theorem State.putBytes_fused (s : State) (a : Nat) (bs : List Byte) :
    (s.putBytes a bs).fused = s.fused := rfl
@[simp] theorem State.putBytes_sused (s : State) (a : Nat) (bs : List Byte) :
    (s.putBytes a bs).sused = s.sused := rfl
@[simp] theorem State.putBytes_queue (s : State) (a : Nat) (bs : List Byte) :
    (s.putBytes a bs).queue = s.queue := rfl
@[simp] theorem State.putBytes_procs (s : State) (a : Nat) (bs : List Byte) :
    (s.putBytes a bs).procs = s.procs := rfl
@[simp] theorem State.putBytes_faulted (s : State) (a : Nat) (bs : List Byte) :
    (s.putBytes a bs).faulted = s.faulted := rfl
@[simp] theorem State.putBytes_npid (s : State) (a : Nat) (bs : List Byte) :
    (s.putBytes a bs).npid = s.npid := rfl
@[simp] theorem State.putBytes_commands (s : State) (a : Nat) (bs : List Byte) :
    (s.putBytes a bs).commands = s.commands := rfl
@[simp] theorem State.putBytes_response (s : State) (a : Nat) (bs : List Byte) :
    (s.putBytes a bs).response = s.response := rfl
@[simp] theorem State.putBytes_draws (s : State) (a : Nat) (bs : List Byte) :
    (s.putBytes a bs).draws = s.draws := rfl
@[simp] theorem State.putBytes_frameUsed (s : State) (a : Nat) (bs : List Byte) (k : Nat) :
    (s.putBytes a bs).frameUsed k = s.frameUsed k := rfl
@[simp] theorem State.putBytes_slotUsed (s : State) (a : Nat) (bs : List Byte) (k : Nat) :
    (s.putBytes a bs).slotUsed k = s.slotUsed k := rfl

/-! ### Shape kept by each update -/

section Shape

variable {s : State}

theorem State.WellShaped.respond (h : s.WellShaped) (st : Status) (info : BitVec 4) (b : Byte) :
    (s.respond st info b).WellShaped :=
  ⟨h.1, h.2, h.3, h.4, h.5, h.6, h.7, h.8, h.9, h.10, h.11⟩

theorem State.WellShaped.issue (h : s.WellShaped) (rest : List CommandWord) :
    (s.issue rest).WellShaped :=
  ⟨h.1, h.2, h.3, h.4, h.5, h.6, h.7, h.8, h.9, h.10, h.11⟩

theorem State.WellShaped.afterDraws (h : s.WellShaped) : s.afterDraws.WellShaped :=
  ⟨h.1, h.2, h.3, h.4, h.5, h.6, h.7, h.8, h.9, h.10, h.11⟩

theorem State.WellShaped.putPhys (h : s.WellShaped) (a : Nat) (v : Byte) :
    (s.putPhys a v).WellShaped :=
  ⟨h.1, h.2, h.3, h.4, by simpa using h.5, h.6, h.7, h.8, h.9, h.10, h.11⟩

theorem State.WellShaped.putBytes (h : s.WellShaped) (a : Nat) (bs : List Byte) :
    (s.putBytes a bs).WellShaped :=
  ⟨h.1, h.2, h.3, h.4, by simpa using h.5, h.6, h.7, h.8, h.9, h.10, h.11⟩

theorem State.WellShaped.putSwap (h : s.WellShaped) (a : Nat) (v : Byte) :
    (s.putSwap a v).WellShaped :=
  ⟨h.1, h.2, h.3, h.4, h.5, by simpa using h.6, h.7, h.8, h.9, h.10, h.11⟩

theorem State.WellShaped.putFrame (h : s.WellShaped) (f : Nat) (u : Bool) :
    (s.putFrame f u).WellShaped :=
  ⟨h.1, h.2, h.3, h.4, h.5, h.6, by simpa using h.7, h.8, h.9, h.10, h.11⟩

theorem State.WellShaped.putSlot (h : s.WellShaped) (i : Nat) (u : Bool) :
    (s.putSlot i u).WellShaped :=
  ⟨h.1, h.2, h.3, h.4, h.5, h.6, h.7, by simpa using h.8, h.9, h.10, h.11⟩

theorem State.WellShaped.dropFront (h : s.WellShaped) : s.dropFront.WellShaped :=
  ⟨h.1, h.2, h.3, h.4, h.5, h.6, h.7, h.8, h.9, h.10,
    fun r hr => h.11 r (List.mem_of_mem_tail hr)⟩

theorem State.WellShaped.pushQueue (h : s.WellShaped) {loc : Nat}
    (hl : loc < Config.frameBytes * s.nframes) : (s.pushQueue loc).WellShaped := by
  refine ⟨h.1, h.2, h.3, h.4, h.5, h.6, h.7, h.8, h.9, h.10, fun r hr => ?_⟩
  rcases List.mem_append.1 hr with hr | hr
  · exact h.11 r hr
  · have hn := h.nframes_le
    simp only [List.mem_singleton] at hr
    subst hr
    simp only [State.pushQueue_nframes, BitVec.toNat_ofNat]
    exact lt_of_le_of_lt (Nat.mod_le _ _) hl

/-- Frame numbers below 64 survive in an 8-bit register (R22). -/
theorem toNat_ofNat_frame (h : s.WellShaped) {f : Nat} (hf : f < s.nframes) :
    (BitVec.ofNat 8 f).toNat = f := by
  have hn := h.nframes_le
  simp only [Config.maxFrames] at hn
  rw [BitVec.toNat_ofNat]
  exact Nat.mod_eq_of_lt (by omega)

theorem State.WellShaped.putProc (h : s.WellShaped) {p c r : Nat} (hc : 1 ≤ c) (hcn : c < s.nframes)
    (hr : 1 ≤ r) (hrn : r < s.nframes) : (s.putProc p c r).WellShaped := by
  refine ⟨h.1, h.2, h.3, h.4, h.5, h.6, h.7, h.8, by simpa using h.9, fun x hx => ?_, h.11⟩
  rcases List.mem_or_eq_of_mem_set hx with hx | hx
  · exact h.10 x hx
  · subst hx
    simp only [State.putProc_nframes, toNat_ofNat_frame h hcn, toNat_ofNat_frame h hrn]
    exact .inr ⟨hr, hrn, hc, hcn⟩

end Shape

/-- The four bytes of a frame that exists. -/
theorem State.WellShaped.frame_bytes {s : State} (h : s.WellShaped) {f : Nat} (hf : f < s.nframes)
    {k : Nat} (hk : k < 4) : (s.phys.read (frameBase f + k)).isSome = true := by
  rw [h.phys_exists]
  simp only [frameBase, Config.frameBytes]
  omega

/-- ZERO_FRAME (R191) on a frame that exists. -/
theorem zeroFrame_eq_ok {s : State} (h : s.WellShaped) {t : Nat} (ht : t < s.nframes) :
    zeroFrame t s = .ok () (s.putBytes (frameBase t) [0x00#8, 0x00#8, 0x00#8, 0x00#8]) :=
  writeBytes_eq_ok fun _ hk => h.frame_bytes ht hk

/-- Drawing the bytes of a frame that exists (R204, R210). -/
theorem drawFrame_eq_ok {s : State} (h : s.WellShaped) {g : Nat} (hg : g < s.nframes) :
    drawFrame g s = .ok () (s.afterDraws.putBytes (frameBase g) s.drawnBytes) :=
  writeBytes_eq_ok fun _ hk => h.afterDraws.frame_bytes hg hk

/-! ### Allocators and queue -/

/-- FALLOC, when it succeeds (R121): the lowest free frame, now used. -/
theorem falloc_some {s t : State} {g : Nat} (h : falloc s = some (g, t)) :
    1 ≤ g ∧ g < s.nframes ∧ s.fused.bit g = some false ∧
      (∀ j, 1 ≤ j → j < g → s.fused.bit j ≠ some false) ∧ t = s.putFrame g true := by
  simp only [falloc, Option.map_eq_some_iff] at h
  obtain ⟨i, hi, he⟩ := h
  cases he
  obtain ⟨h1, h2, h3, h4⟩ := Bitmap.firstFree_some hi
  exact ⟨h1, h2, h3, h4, rfl⟩

/-- SPEEK, when it finds a slot (R126). -/
theorem speek_some {s : State} {i : Nat} (h : speek s = some i) :
    1 ≤ i ∧ i < s.nslots ∧ s.sused.bit i = some false ∧
      ∀ j, 1 ≤ j → j < i → s.sused.bit j ≠ some false :=
  Bitmap.firstFree_some h

/-- FRELEASE on an allocated frame (R123). -/
theorem frelease_eq_ok {s : State} {f : Nat} (h1 : 1 ≤ f) (hn : f < s.nframes)
    (hu : s.frameUsed f = true) : frelease f s = .ok () (s.putFrame f false) := by
  have : ¬ (f = 0 ∨ s.nframes ≤ f ∨ s.frameUsed f = false) := by
    rw [hu]; simp; omega
  rw [frelease, if_neg this]

/-- SRELEASE on an allocated slot (R125). -/
theorem srelease_eq_ok {s : State} {i : Nat} (h1 : 1 ≤ i) (hn : i < s.nslots)
    (hu : s.slotUsed i = true) : srelease i s = .ok () (s.putSlot i false) := by
  have : ¬ (i = 0 ∨ s.nslots ≤ i ∨ s.slotUsed i = false) := by
    rw [hu]; simp; omega
  rw [srelease, if_neg this]

/-- An allocated frame is one of 1 .. NFRAMES-1 (R29). -/
theorem State.WellShaped.frameUsed_inside {s : State} (h : s.WellShaped) {f : Nat}
    (hu : s.frameUsed f = true) : 1 ≤ f ∧ f < s.nframes :=
  Bitmap.bit_inside h.fused_length (by simpa [State.frameUsed] using hu)

/-- A bit after FUSED has been written at an index in range. -/
theorem State.WellShaped.frameUsed_putFrame {s : State} (h : s.WellShaped) {f : Nat} (h1 : 1 ≤ f)
    (hn : f < s.nframes) (u : Bool) (j : Nat) :
    (s.putFrame f u).frameUsed j = if j = f then u else s.frameUsed j := by
  have hl := h.fused_length
  simp only [State.frameUsed, State.putFrame_fused, Bitmap.bit_put _ h1]
  have hle : f ≤ List.length s.fused := by omega
  by_cases hj : j = f <;> simp [hj, hle]

/-- A bit after SUSED has been written at an index in range. -/
theorem State.WellShaped.slotUsed_putSlot {s : State} (h : s.WellShaped) {i : Nat} (h1 : 1 ≤ i)
    (hn : i < s.nslots) (u : Bool) (j : Nat) :
    (s.putSlot i u).slotUsed j = if j = i then u else s.slotUsed j := by
  have hl := h.sused_length
  simp only [State.slotUsed, State.putSlot_sused, Bitmap.bit_put _ h1]
  have hle : i ≤ List.length s.sused := by omega
  by_cases hj : j = i <;> simp [hj, hle]

/-- An entry that can be followed (R193, R202). -/
theorem validFrame_iff {s : State} {g : Nat} :
    validFrame s g = true ↔ 1 ≤ g ∧ g < s.nframes ∧ s.frameUsed g = true := by
  simp [validFrame, and_assoc]

/-- A slot number that can be released (R205). -/
theorem validSlot_iff {s : State} {i : Nat} :
    validSlot s i = true ↔ i < s.nslots ∧ s.slotUsed i = true := by
  simp [validSlot]

/-- An index whose bit is set is not 0. -/
theorem State.slotUsed_pos {s : State} {i : Nat} (h : s.slotUsed i = true) : 1 ≤ i := by
  cases i with
  | zero => simp [State.slotUsed, Bitmap.bit] at h
  | succ k => omega

end Sys2Proof.Machine
end

