-- ==== Sys2Proof/Laws/Walker.lean ====
section
/-!
SUPPORT. What the operations of the walker can do from a well-shaped state, one inversion lemma each:
every case with its guard and the state it leaves. No case raises a model fault.
-/

namespace Sys2Proof.Machine

/-- The state a successful EVICT leaves (R193). -/
def State.evicted (s : State) (r : Byte) (slot v : Nat) : State :=
  (((s.dropFront.putSlot slot true).putPhys r.toNat (encSwapped slot)).putFrame v false).putSwap
    (frameBase slot) (BitVec.ofNat 8 v)

/-- What stays as it was through an internal operation of the walker: the shape, the control state
and the process table. -/
structure State.Kept (s t : State) : Prop where
  shaped : t.WellShaped
  control : s.SameControl t
  procs : t.procs = s.procs

theorem State.Kept.refl {s : State} (h : s.WellShaped) : s.Kept s :=
  ⟨h, ⟨rfl, rfl, rfl, rfl, rfl, rfl⟩, rfl⟩

theorem State.Kept.trans {s t u : State} (h : s.Kept t) (k : t.Kept u) : s.Kept u := by
  obtain ⟨a, b, c, d, e, f⟩ := h.control
  obtain ⟨a', b', c', d', e', f'⟩ := k.control
  exact ⟨k.shaped, ⟨a'.trans a, b'.trans b, c'.trans c, d'.trans d, e'.trans e, f'.trans f⟩,
    k.procs.trans h.procs⟩

/-- EVICT (R193), from a well-shaped state: an error changes nothing, and a success is the eviction
of the front entry's frame to the lowest free slot. -/
theorem evict_cases {s : State} (h : s.WellShaped) :
    (s.queue = [] ∧ evict s = .err .noVictim s) ∨
    (s.queue ≠ [] ∧ speek s = none ∧ evict s = .err .noSwap s) ∨
    (∃ r q slot, s.queue = r :: q ∧ speek s = some slot ∧
      (∀ v, s.entryFrame r.toNat = some v → validFrame s v = false) ∧
      evict s = .err .corrupt s) ∨
    (∃ r q slot v, s.queue = r :: q ∧ speek s = some slot ∧ s.entryFrame r.toNat = some v ∧
      validFrame s v = true ∧ evict s = .ok () (s.evicted r slot v)) := by
  cases hq : s.queue with
  | nil => exact .inl ⟨rfl, by simp [evict, hq]⟩
  | cons r q =>
    cases hk : speek s with
    | none => exact .inr (.inl ⟨by simp, rfl, by simp [evict, hq, hk]⟩)
    | some slot =>
      have hr : r.toNat < Config.frameBytes * s.nframes := h.queue_inside r (by simp [hq])
      obtain ⟨b, hb⟩ := Option.isSome_iff_exists.1 ((h.phys_exists _).2 hr)
      have hev : evict s = match classify b with
          | .mapped v =>
            if validFrame s v.toNat then evictVictim r slot v.toNat s else .err .corrupt s
          | .unmapped => .err .corrupt s
          | .swapped _ => .err .corrupt s := by
        simp only [evict, hq, hk, readPhys_eq_ok hb, Result.bind_ok]
        all_goals rfl
      cases hc : classify b with
      | unmapped =>
        refine .inr (.inr (.inl ⟨r, q, slot, rfl, rfl, ?_, by rw [hev, hc]⟩))
        simp [State.entryFrame, hb, hc]
      | swapped i =>
        refine .inr (.inr (.inl ⟨r, q, slot, rfl, rfl, ?_, by rw [hev, hc]⟩))
        simp [State.entryFrame, hb, hc]
      | mapped v =>
        have he : s.entryFrame r.toNat = some v.toNat := by simp [State.entryFrame, hb, hc]
        cases hv : validFrame s v.toNat with
        | false =>
          refine .inr (.inr (.inl ⟨r, q, slot, rfl, rfl, ?_, by rw [hev, hc]; simp [hv]⟩))
          intro w hw
          rw [he] at hw
          cases hw
          exact hv
        | true =>
          refine .inr (.inr (.inr ⟨r, q, slot, v.toNat, rfl, rfl, he, hv, ?_⟩))
          obtain ⟨v1, vn, vu⟩ := validFrame_iff.1 hv
          obtain ⟨_, sn, _, _⟩ := speek_some hk
          rw [hev, hc]
          simp only [hv, if_true, evictVictim]
          rw [writePhys_eq_ok (by simp [hb]), Result.bind_ok,
            frelease_eq_ok v1 (by simpa using vn) (by simpa using vu), Result.bind_ok,
            writeSwap_eq_ok]
          · rfl
          · have := (h.swap_exists (frameBase slot)).2 (by simp [frameBase]; omega)
            simpa using this

/-- A successful eviction keeps the shape and the control state. -/
theorem State.WellShaped.evicted {s : State} (h : s.WellShaped) (r : Byte) (slot v : Nat) :
    s.Kept (s.evicted r slot v) :=
  ⟨(((h.dropFront.putSlot slot true).putPhys _ _).putFrame v false).putSwap _ _,
    ⟨rfl, rfl, rfl, rfl, rfl, rfl⟩, rfl⟩

/-- What an allocation leaves (R192). -/
structure State.Allocated (s : State) (g : Nat) (t : State) : Prop extends s.Kept t where
  pos : 1 ≤ g
  inside : g < s.nframes
  used : t.frameUsed g = true
  draws : t.draws = s.draws
  slots : ∀ i, s.slotUsed i = true → t.slotUsed i = true

theorem falloc_allocated {s t : State} {g : Nat} (h : s.WellShaped)
    (hf : falloc s = some (g, t)) : s.Allocated g t := by
  obtain ⟨h1, hn, _, _, rfl⟩ := falloc_some hf
  exact { shaped := h.putFrame g true, control := ⟨rfl, rfl, rfl, rfl, rfl, rfl⟩, procs := rfl
          pos := h1, inside := hn, draws := rfl, slots := fun _ hi => hi
          used := by rw [h.frameUsed_putFrame h1 hn]; simp }

/-- ALLOC_EVICT (R192), from a well-shaped state: a frame, or an error that changed nothing. -/
theorem allocEvict_cases {s : State} (h : s.WellShaped) :
    (∃ g t, allocEvict s = .ok g t ∧ s.Allocated g t) ∨ (∃ e, allocEvict s = .err e s) := by
  cases hf : falloc s with
  | some x =>
    obtain ⟨g, t⟩ := x
    exact .inl ⟨g, t, by simp [allocEvict, hf], falloc_allocated h hf⟩
  | none =>
    have ha : allocEvict s = (evict s).bind fun _ s => retryAlloc s := by simp [allocEvict, hf]
    rcases evict_cases h with ⟨_, he⟩ | ⟨_, _, he⟩ | ⟨_, _, _, _, _, _, he⟩ |
      ⟨r, q, slot, v, _, hk, _, hv, he⟩
    · exact .inr ⟨_, by rw [ha, he]; rfl⟩
    · exact .inr ⟨_, by rw [ha, he]; rfl⟩
    · exact .inr ⟨_, by rw [ha, he]; rfl⟩
    · have hkept := h.evicted r slot v
      obtain ⟨v1, vn, vu⟩ := validFrame_iff.1 hv
      obtain ⟨s1, sn, _, _⟩ := speek_some hk
      have hfree : (s.evicted r slot v).fused.bit v = some false := by
        have hl := h.fused_length
        change (s.fused.put v false).bit v = _
        rw [Bitmap.bit_put _ v1, if_pos ⟨rfl, by omega⟩]
      obtain ⟨g, hg⟩ := Bitmap.firstFree_of_free (n := (s.evicted r slot v).nframes) v1 vn hfree
      have hf' : falloc (s.evicted r slot v) = some (g, (s.evicted r slot v).putFrame g true) := by
        simp [falloc, hg]
      have hal := falloc_allocated hkept.shaped hf'
      refine .inl ⟨g, _, by rw [ha, he, Result.bind_ok, retryAlloc, hf'], ?_⟩
      exact { hkept.trans hal.toKept with
        pos := hal.pos, inside := hal.inside, used := hal.used, draws := hal.draws
        slots := fun i hi => hal.slots i (by
          change (s.putSlot slot true).slotUsed i = true
          rw [h.slotUsed_putSlot s1 sn]
          split <;> [rfl; exact hi]) }

/-- What one level of the walk leaves when it goes on (R201): a frame that exists. -/
structure State.Resolved (s : State) (g : Nat) (t : State) : Prop extends s.Kept t where
  pos : 1 ≤ g
  inside : g < s.nframes

/-- The writes that follow an allocation at a level keep everything else. -/
theorem State.Allocated.kept_bytes {s t : State} {g : Nat} (h : s.Allocated g t) (a : Nat)
    (bs : List Byte) : s.Kept (t.putBytes a bs) :=
  h.toKept.trans ⟨h.shaped.putBytes a bs, ⟨rfl, rfl, rfl, rfl, rfl, rfl⟩, rfl⟩

theorem State.Kept.putPhys {s t : State} (h : s.Kept t) (a : Nat) (v : Byte) :
    s.Kept (t.putPhys a v) :=
  h.trans ⟨h.shaped.putPhys a v, ⟨rfl, rfl, rfl, rfl, rfl, rfl⟩, rfl⟩

theorem State.Kept.putSlot {s t : State} (h : s.Kept t) (i : Nat) (u : Bool) :
    s.Kept (t.putSlot i u) :=
  h.trans ⟨h.shaped.putSlot i u, ⟨rfl, rfl, rfl, rfl, rfl, rfl⟩, rfl⟩

theorem State.Kept.drawn {s t : State} (h : s.Kept t) (a : Nat) (bs : List Byte) :
    s.Kept (t.afterDraws.putBytes a bs) :=
  h.trans ⟨h.shaped.afterDraws.putBytes a bs, ⟨rfl, rfl, rfl, rfl, rfl, rfl⟩, rfl⟩

theorem State.Kept.nframes {s t : State} (h : s.Kept t) : t.nframes = s.nframes := h.control.2.1

/-- An address that exists still exists. -/
theorem State.Kept.exists_byte {s t : State} (h : s.Kept t) {a : Nat}
    (ha : a < Config.frameBytes * s.nframes) : (t.phys.read a).isSome = true := by
  rw [h.shaped.phys_exists, h.nframes]; exact ha

theorem State.Kept.pushQueue {s t : State} (h : s.Kept t) {loc : Nat}
    (hl : loc < Config.frameBytes * s.nframes) : s.Kept (t.pushQueue loc) :=
  h.trans ⟨h.shaped.pushQueue (by rw [h.nframes]; exact hl), ⟨rfl, rfl, rfl, rfl, rfl, rfl⟩, rfl⟩

/-- A new table frame (R203): an error changed nothing. -/
theorem mapTable_cases {s : State} (h : s.WellShaped) {loc : Nat}
    (hl : loc < Config.frameBytes * s.nframes) :
    (∃ g t, s.Allocated g t ∧ allocEvict s = .ok g t ∧
      mapTable loc s = .ok g ((t.putBytes (frameBase g) [0x00#8, 0x00#8, 0x00#8, 0x00#8]).putPhys
        loc (encMapped g))) ∨
    (∃ e, allocEvict s = .err e s ∧ mapTable loc s = .err e s) := by
  rcases allocEvict_cases h with ⟨g, t, ha, hal⟩ | ⟨e, ha⟩
  · refine .inl ⟨g, t, hal, ha, ?_⟩
    have hg : g < t.nframes := by rw [hal.nframes]; exact hal.inside
    simp only [mapTable, ha, Result.bind_ok, zeroFrame_eq_ok hal.shaped hg]
    rw [writePhys_eq_ok ((hal.kept_bytes _ _).exists_byte hl), Result.bind_ok]
  · exact .inr ⟨e, ha, by simp [mapTable, ha]⟩

/-- A new data frame (R204): an error changed nothing. -/
theorem mapLeaf_cases {s : State} (h : s.WellShaped) {loc : Nat}
    (hl : loc < Config.frameBytes * s.nframes) :
    (∃ g t, s.Allocated g t ∧ allocEvict s = .ok g t ∧
      mapLeaf loc s = .ok g (((t.afterDraws.putBytes (frameBase g) t.drawnBytes).putPhys
        loc (encMapped g)).pushQueue loc)) ∨
    (∃ e, allocEvict s = .err e s ∧ mapLeaf loc s = .err e s) := by
  rcases allocEvict_cases h with ⟨g, t, ha, hal⟩ | ⟨e, ha⟩
  · refine .inl ⟨g, t, hal, ha, ?_⟩
    have hg : g < t.nframes := by rw [hal.nframes]; exact hal.inside
    have hx := (hal.shaped.afterDraws.putBytes (frameBase g) t.drawnBytes).phys_exists loc
    simp only [mapLeaf, ha, Result.bind_ok, drawFrame_eq_ok hal.shaped hg]
    rw [writePhys_eq_ok (hx.2 (by simpa [hal.nframes] using hl)), Result.bind_ok]
  · exact .inr ⟨e, ha, by simp [mapLeaf, ha]⟩

/-- SWAP_IN (R210) of a used slot: an error changed nothing. -/
theorem swapIn_cases {s : State} (h : s.WellShaped) {loc slot : Nat}
    (hl : loc < Config.frameBytes * s.nframes) (hv : validSlot s slot = true) :
    (∃ g t, s.Allocated g t ∧ allocEvict s = .ok g t ∧
      swapIn loc slot s = .ok g ((((t.afterDraws.putBytes (frameBase g) t.drawnBytes).putSlot
        slot false).putPhys loc (encMapped g)).pushQueue loc)) ∨
    (∃ e, allocEvict s = .err e s ∧ swapIn loc slot s = .err e s) := by
  rcases allocEvict_cases h with ⟨g, t, ha, hal⟩ | ⟨e, ha⟩
  · refine .inl ⟨g, t, hal, ha, ?_⟩
    obtain ⟨sn, su⟩ := validSlot_iff.1 hv
    have hg : g < t.nframes := by rw [hal.nframes]; exact hal.inside
    have hns : t.nslots = s.nslots := hal.control.2.2.1
    have hx := ((hal.shaped.afterDraws.putBytes (frameBase g) t.drawnBytes).putSlot
      slot false).phys_exists loc
    simp only [swapIn, ha, Result.bind_ok, drawFrame_eq_ok hal.shaped hg]
    rw [srelease_eq_ok (State.slotUsed_pos su) (by simpa [hns] using sn)
      (by simpa using hal.slots slot su), Result.bind_ok,
      writePhys_eq_ok (hx.2 (by simpa [hal.nframes] using hl)), Result.bind_ok]
  · exact .inr ⟨e, ha, by simp [swapIn, ha]⟩

/-- One level of the walk (R201), from a well-shaped state: it goes on to a frame that exists, or it
fails having changed nothing at this level (R208). -/
theorem walkLevel_cases {s : State} (h : s.WellShaped) (lvl : Level) {loc : Nat}
    (hl : loc < Config.frameBytes * s.nframes) :
    (∃ g t, walkLevel lvl loc s = .ok g t ∧ s.Resolved g t) ∨
    (∃ e, walkLevel lvl loc s = .err e s) := by
  have hmap : (∃ g t, mapTable loc s = .ok g t ∧ s.Resolved g t) ∨
      (∃ e, mapTable loc s = .err e s) := by
    rcases mapTable_cases h hl with ⟨g, t, hal, _, hm⟩ | ⟨e, _, hm⟩
    · exact .inl ⟨g, _, hm, { (hal.kept_bytes _ _).putPhys _ _ with
        pos := hal.pos, inside := hal.inside }⟩
    · exact .inr ⟨e, hm⟩
  have hleaf : (∃ g t, mapLeaf loc s = .ok g t ∧ s.Resolved g t) ∨
      (∃ e, mapLeaf loc s = .err e s) := by
    rcases mapLeaf_cases h hl with ⟨g, t, hal, _, hm⟩ | ⟨e, _, hm⟩
    · exact .inl ⟨g, _, hm, { ((hal.toKept.drawn _ _).putPhys _ _).pushQueue hl with
        pos := hal.pos, inside := hal.inside }⟩
    · exact .inr ⟨e, hm⟩
  obtain ⟨b, hb⟩ := Option.isSome_iff_exists.1 ((h.phys_exists loc).2 hl)
  have hw : walkLevel lvl loc s = match classify b with
      | .mapped g => descend g.toNat s
      | .unmapped => create lvl loc s
      | .swapped slot => restore lvl loc slot.toNat s := by
    simp only [walkLevel, readPhys_eq_ok hb, Result.bind_ok]
    all_goals rfl
  rw [hw]
  cases classify b with
  | mapped g =>
    simp only [descend]
    split
    · next hv =>
      obtain ⟨g1, gn, _⟩ := validFrame_iff.1 hv
      exact .inl ⟨_, _, rfl, { State.Kept.refl h with pos := g1, inside := gn }⟩
    · exact .inr ⟨_, rfl⟩
  | unmapped =>
    cases lvl with
    | directory => exact hmap
    | middleDirectory => exact hmap
    | table => exact hleaf
  | swapped slot =>
    cases lvl with
    | directory => exact .inr ⟨_, rfl⟩
    | middleDirectory => exact .inr ⟨_, rfl⟩
    | table =>
      simp only [restore]
      split
      · next hv =>
        rcases swapIn_cases h hl hv with ⟨g, t, hal, _, hm⟩ | ⟨e, _, hm⟩
        · exact .inl ⟨g, _, hm, { (((hal.toKept.drawn _ _).putSlot _ _).putPhys _ _).pushQueue hl with
            pos := hal.pos, inside := hal.inside }⟩
        · exact .inr ⟨e, hm⟩
      · exact .inr ⟨_, rfl⟩

end Sys2Proof.Machine
end

