-- ==== Sys2Proof/Laws/Exec.lean ====
section
/-!
SUPPORT. The dispatch and the step as equations, the registers of a bound pid, and the whole walk from a
well-shaped state.
-/

namespace Sys2Proof.Machine

/-! ### Dispatch and step -/

@[simp] theorem exec_init (psize ssize : Nat) (s : State) :
    exec (.init psize ssize) s = execInit psize ssize s := rfl
@[simp] theorem exec_bind (pid : Nat) (s : State) : exec (.bind pid) s = execBind pid s := rfl
@[simp] theorem exec_fault (pid : Nat) (va : Byte) (s : State) :
    exec (.fault pid va) s = execFault pid va s := rfl
@[simp] theorem exec_prd (addr : Nat) (s : State) : exec (.prd addr) s = execPrd addr s := rfl
@[simp] theorem exec_pwr (addr : Nat) (data : Byte) (s : State) :
    exec (.pwr addr data) s = execPwr addr data s := rfl

/-- INIT within the limits (R252). -/
theorem execInit_eq {psize ssize : Nat} (hp : psize / 4 ≤ 64) (hs : ssize / 4 ≤ 128) (s : State) :
    execInit psize ssize s =
      .next ((s.initialise (psize / 4) (ssize / 4)).respond .ok 0#4 0#8) := by
  simp [execInit, sizesFit, wholeFrames, hp, hs]

/-- The two outcomes of receiving a word (R250). -/
theorem receive_eq (w : CommandWord) (s : State) :
    (∃ i, decode w = .ok i ∧ receive w s = exec i s) ∨
    (∃ r, decode w = .error r ∧ receive w s = .next (s.respond .illegal 0#4 0#8)) := by
  unfold receive
  cases h : decode w with
  | ok i => exact .inl ⟨i, rfl, rfl⟩
  | error r => exact .inr ⟨r, rfl, rfl⟩

/-- The three cases of a step: faulted, idle, or one word received. -/
theorem step_eq (s : State) :
    (∃ r, s.faulted = some r ∧ step s = .fault r) ∨
    (s.faulted = none ∧ s.commands = [] ∧ step s = .next s) ∨
    (∃ w rest, s.faulted = none ∧ s.commands = w :: rest ∧
      step s = receive w (s.issue rest)) := by
  unfold step advance
  cases hf : s.faulted with
  | some r => exact .inl ⟨r, rfl, rfl⟩
  | none =>
    cases hc : s.commands with
    | nil => exact .inr (.inl ⟨rfl, rfl, rfl⟩)
    | cons w rest => exact .inr (.inr ⟨w, rest, rfl, rfl, rfl⟩)

/-! ### Registers -/

theorem reset_procs :
    State.reset.procs = List.replicate Config.defaultNpid { pdbr := 0#8, pcb := 0#8 } := rfl

/-- A pid in range has its own registers in the table (R22). -/
theorem State.WellShaped.proc_mem {s : State} (h : s.WellShaped) {p : Nat} (hp : p < s.npid) :
    s.proc p ∈ s.procs := by
  have hl := h.procs_length
  simp [State.proc, List.getD, List.getElem?_eq_getElem (by omega : p < s.procs.length)]

/-- The root of a bound pid is a frame that exists. -/
theorem State.WellShaped.pdbr_inside {s : State} (h : s.WellShaped) {p : Nat} (hp : p < s.npid)
    (hb : s.pdbr p ≠ 0#8) : 1 ≤ (s.pdbr p).toNat ∧ (s.pdbr p).toNat < s.nframes := by
  rcases h.procs_bound _ (h.proc_mem hp) with hz | hz
  · exact absurd hz.1 hb
  · exact ⟨hz.1, hz.2.1⟩

/-- The registers after a binding has been registered (R231). -/
theorem State.WellShaped.proc_putProc {s : State} (h : s.WellShaped) {p : Nat} (hp : p < s.npid)
    (c r q : Nat) : (s.putProc p c r).proc q =
      if q = p then { pdbr := BitVec.ofNat 8 r, pcb := BitVec.ofNat 8 c } else s.proc q := by
  have hl := h.procs_length
  simp only [State.proc, State.putProc_procs, List.getD, List.getElem?_set]
  by_cases hq : p = q
  · subst hq
    have : p < s.procs.length := by omega
    simp [this]
  · have : ¬ q = p := fun e => hq e.symm
    simp [hq, this]

/-! ### The walk -/

/-- The entries of a frame that exists lie in the arena (R163). -/
theorem entryAddr_inside {n t : Nat} (ht : t < n) (idx : BitVec 2) :
    entryAddr t idx < Config.frameBytes * n := by
  have := idx.isLt
  simp only [entryAddr, Config.entriesPerTable, Config.frameBytes]
  omega

/-- The walk (R206) from a frame that exists answers, and keeps the shape, the control state and the
process table. -/
theorem walk_cases (levels : List (Level × BitVec 2)) {s : State} {t : Nat} (h : s.WellShaped)
    (ht : t < s.nframes) : ∃ u, walk levels t s = .next u ∧ s.Kept u := by
  induction levels generalizing s t with
  | nil =>
    exact ⟨_, rfl, h.respond _ _ _, ⟨rfl, rfl, rfl, rfl, rfl, rfl⟩, rfl⟩
  | cons x rest ih =>
    obtain ⟨lvl, idx⟩ := x
    simp only [walk]
    rcases walkLevel_cases h lvl (entryAddr_inside ht idx) with ⟨g, u, hw, hr⟩ | ⟨e, hw⟩
    · rw [hw]
      obtain ⟨v, hv, hk⟩ := ih hr.shaped (by rw [hr.nframes]; exact hr.inside)
      exact ⟨v, hv, hr.toKept.trans hk⟩
    · rw [hw]
      exact ⟨_, rfl, h.respond _ _ _, ⟨rfl, rfl, rfl, rfl, rfl, rfl⟩, rfl⟩

end Sys2Proof.Machine
end

