-- ==== Sys2Proof/Laws/PerInstr.lean ====
section
/-!
SUPPORT. Per-command facts about the encoding (R92, R95): the OP field, RSV0 and the operand bits of the
word of each command.
-/

namespace Sys2Proof.Laws

/-- The OP field of an encoded command, whatever its operands. -/
theorem opField_encode (i : Instr) : opField (encode i) = opcodeOf i := by
  rw [opField, encode, BitVec.extractLsb'_append_eq_of_le (by omega)]
  exact BitVec.extractLsb'_append_eq_left

/-- RSV0 of an encoded command is 0000. -/
theorem rsv0_encode (i : Instr) : (encode i).extractLsb' 24 4 = 0#4 := by
  rw [encode, BitVec.extractLsb'_append_eq_of_le (by omega)]
  exact BitVec.extractLsb'_append_eq_right

/-- The operand bits of an encoded command. -/
theorem operands_encode (i : Instr) : (encode i).extractLsb' 0 24 = operandBits i :=
  BitVec.extractLsb'_append_eq_right

/-- The word of a command carries its opcode, zeros in RSV0, and its operand bits. -/
def EncodesInItsFormat.Statement (i : Instr) : Prop :=
  opField (encode i) = opcodeOf i ∧ (encode i).extractLsb' 24 4 = 0#4 ∧
    (encode i).extractLsb' 0 24 = operandBits i

theorem EncodesInItsFormat.init (psize ssize : Nat) :
    EncodesInItsFormat.Statement (.init psize ssize) :=
  ⟨opField_encode _, rsv0_encode _, operands_encode _⟩

theorem EncodesInItsFormat.bind (pid : Nat) : EncodesInItsFormat.Statement (.bind pid) :=
  ⟨opField_encode _, rsv0_encode _, operands_encode _⟩

theorem EncodesInItsFormat.fault (pid : Nat) (va : Byte) :
    EncodesInItsFormat.Statement (.fault pid va) :=
  ⟨opField_encode _, rsv0_encode _, operands_encode _⟩

theorem EncodesInItsFormat.prd (addr : Nat) : EncodesInItsFormat.Statement (.prd addr) :=
  ⟨opField_encode _, rsv0_encode _, operands_encode _⟩

theorem EncodesInItsFormat.pwr (addr : Nat) (data : Byte) :
    EncodesInItsFormat.Statement (.pwr addr data) :=
  ⟨opField_encode _, rsv0_encode _, operands_encode _⟩

end Sys2Proof.Laws
end

