-- ==== Sys2Proof/Tests/Slice0.lean ====
section
/-!
SUPPORT. Small tests. Expected values come from the spec: the encoding tables of 30_encoding.md and the
vectors and programs of 95_test_vectors.md, named beside each test. Then, for each obligation with
hypotheses, a concrete state and operands that meet them together, clause by clause.
-/

namespace Sys2Proof.Tests

open Sys2Proof.Machine

/-! ### States of the spec's vectors -/

/-- An arena with these bytes from address 0. -/
def arena (bytes : List Byte) : Memory := (List.range bytes.length).zip bytes

/-- An initialised machine with NPID 2 whose pid 1 has PCB frame 1 and root frame 2, as after
`BIND 1` on a fresh INIT (L2-G). -/
def machine (nf ns : Nat) (bytes : List Byte) (fused sused : Bitmap) (queue : List Byte) : State :=
  { State.reset with
    ready := true, nframes := nf, nslots := ns, npid := 2
    procs := [⟨0x00#8, 0x00#8⟩, ⟨0x02#8, 0x01#8⟩]
    phys := arena bytes, swap := Memory.zeroed (4 * ns)
    fused := fused, sused := sused, queue := queue }

/-- Frames 0 to 2 after `BIND 1`: the control block and a root whose entry 0 is `e`. -/
def lowFrames (e : Byte) : List Byte :=
  [0x00, 0x00, 0x00, 0x00, 0x02, 0x00, 0x00, 0x00] ++ [e, 0x00, 0x00, 0x00]

/-- L2-F base, `INIT 32, 16`; `BIND 1`. -/
def fresh : State :=
  machine 8 4 (lowFrames 0x00 ++ List.replicate 20 0x00)
    [true, true, false, false, false, false, false] [false, false, false] []

/-- Program P2 after step 5; the data bytes are any values. -/
def full : State :=
  machine 8 4 (lowFrames 0x0D ++ [0x11, 0x00, 0x00, 0x00, 0x15, 0x19, 0x1D, 0x00] ++
      [0xA0, 0xA1, 0xA2, 0xA3, 0xB0, 0xB1, 0xB2, 0xB3, 0xC0, 0xC1, 0xC2, 0xC3])
    (List.replicate 7 true) [false, false, false] [16#8, 17#8, 18#8]

/-- Program P2 after step 6. -/
def evictedOnce : State :=
  { machine 8 4 (lowFrames 0x0D ++ [0x11, 0x00, 0x00, 0x00, 0x02, 0x19, 0x1D, 0x15] ++
      [0xA0, 0xA1, 0xA2, 0xA3, 0xB0, 0xB1, 0xB2, 0xB3, 0xC0, 0xC1, 0xC2, 0xC3])
    (List.replicate 7 true) [true, false, false] [17#8, 18#8, 19#8] with
    swap := (Memory.zeroed 16).write 4 0x05#8 }

/-- Program P3 after step 4: one usable slot, and it is used. -/
def swapFull : State :=
  { machine 6 2 (lowFrames 0x0D ++ [0x11, 0x00, 0x00, 0x00, 0x02, 0x15, 0x00, 0x00] ++
      [0xA0, 0xA1, 0xA2, 0xA3])
    (List.replicate 5 true) [true] [17#8] with swap := (Memory.zeroed 8).write 4 0x05#8 }

/-- Program P5 after step 3, with pid 1 in place of pid 0: one leaf, one free slot, no free frame. -/
def oneLeaf : State :=
  machine 6 2 (lowFrames 0x0D ++ [0x11, 0x00, 0x00, 0x00, 0x15, 0x00, 0x00, 0x00] ++
      [0xA0, 0xA1, 0xA2, 0xA3])
    (List.replicate 5 true) [false] [16#8]

/-- As program P4: every frame is a control block or a root, every slot is free. -/
def pinned : State :=
  { machine 5 4 (lowFrames 0x00 ++ [0x04, 0x00, 0x00, 0x00, 0x00, 0x00, 0x00, 0x00])
      (List.replicate 4 true) [false, false, false] [] with
    npid := 3, procs := [⟨0x04#8, 0x03#8⟩, ⟨0x02#8, 0x01#8⟩, ⟨0x00#8, 0x00#8⟩] }

theorem fresh_shaped : fresh.WellShaped := shaped_of_check (by decide)
theorem full_shaped : full.WellShaped := shaped_of_check (by decide)
theorem evictedOnce_shaped : evictedOnce.WellShaped := shaped_of_check (by decide)
theorem swapFull_shaped : swapFull.WellShaped := shaped_of_check (by decide)
theorem oneLeaf_shaped : oneLeaf.WellShaped := shaped_of_check (by decide)
theorem pinned_shaped : pinned.WellShaped := shaped_of_check (by decide)
theorem fresh_owned : fresh.Ownership := ownership_of_check fresh_shaped (by decide +kernel)
theorem full_owned : full.Ownership := ownership_of_check full_shaped (by decide +kernel)
theorem evictedOnce_owned : evictedOnce.Ownership :=
  ownership_of_check evictedOnce_shaped (by decide +kernel)
theorem swapFull_owned : swapFull.Ownership :=
  ownership_of_check swapFull_shaped (by decide +kernel)
theorem pinned_owned : pinned.Ownership := ownership_of_check pinned_shaped (by decide +kernel)

/-! ### WellFormed: each check refuses an operand too large for its field (R93) -/

theorem test_wf_psize_refused : (Instr.init 4096 0).wellFormed = false := by decide
theorem test_wf_ssize_refused : (Instr.init 0 4096).wellFormed = false := by decide
theorem test_wf_bind_pid_refused : (Instr.bind 256).wellFormed = false := by decide
theorem test_wf_fault_pid_refused : (Instr.fault 256 0x00#8).wellFormed = false := by decide
theorem test_wf_prd_addr_refused : (Instr.prd 256).wellFormed = false := by decide
theorem test_wf_pwr_addr_refused : (Instr.pwr 256 0x00#8).wellFormed = false := by decide

/-! ### Decoding: words written out from R93 and L2-H, L2-I -/

/-- OP 0001, RSV0 0000, PSIZE 000000010011, SSIZE 000000000011 (`INIT 19, 3`). -/
theorem test_decode_init :
    decode 0b00010000000000010011000000000011#32 = .ok (.init 19 3) := by decide
/-- OP 0010, RSV0 0000, PID 11111111, zeros (`BIND 255`). -/
theorem test_decode_bind :
    decode 0b00100000111111110000000000000000#32 = .ok (.bind 255) := by decide
/-- OP 0011, RSV0 0000, PID 00000011, zeros, VA 11111111 (`FAULT 3, 0xFF`). -/
theorem test_decode_fault :
    decode 0b00110000000000110000000011111111#32 = .ok (.fault 3 0xFF#8) := by decide
/-- OP 0100, RSV0 0000, zeros, ADDR 11111111, zeros (`PRD 255`). -/
theorem test_decode_prd :
    decode 0b01000000000000001111111100000000#32 = .ok (.prd 255) := by decide
/-- OP 0101, RSV0 0000, zeros, ADDR 00010100, DATA 10101011 (`PWR 20, 0xAB`). -/
theorem test_decode_pwr :
    decode 0b01010000000000000001010010101011#32 = .ok (.pwr 20 0xAB#8) := by decide
/-- R98: the two edges of the reserved opcodes, and OP 0. -/
theorem test_decode_reserved_opcodes :
    decode 0x00000000#32 = .error .reservedOpcode ∧ decode 0x60000000#32 = .error .reservedOpcode ∧
      decode 0xF0000000#32 = .error .reservedOpcode := by decide
/-- L2-I and R98: a reserved bit of each format. -/
theorem test_decode_reserved_bits :
    decode 0x11000000#32 = .error .reservedBits ∧ decode 0x20010001#32 = .error .reservedBits ∧
      decode 0x30010100#32 = .error .reservedBits ∧ decode 0x31010000#32 = .error .reservedBits ∧
      decode 0x40000401#32 = .error .reservedBits ∧
      decode 0x50010000#32 = .error .reservedBits := by decide
/-- The example words of spec/opcode_table.json, through the host's entry point. -/
theorem test_table_words :
    decodeTableWord 32 0x10010010 = some (.init 16 16) ∧
      decodeTableWord 32 0x20010000 = some (.bind 1) ∧
      decodeTableWord 32 0x30010000 = some (.fault 1 0x00#8) ∧
      decodeTableWord 32 0x40000400 = some (.prd 4) ∧
      decodeTableWord 32 0x500014AB = some (.pwr 20 0xAB#8) := by decide

/-! ### Operations -/

/-- L2-A: va = 0xE4 and 0x1B. -/
theorem test_decompose :
    decompose 0xE4#8 = [(.directory, 3#2), (.middleDirectory, 2#2), (.table, 1#2)] ∧
      decompose 0x1B#8 = [(.directory, 0#2), (.middleDirectory, 1#2), (.table, 2#2)] := by decide
/-- L2-B: a non-canonical byte, and the edges of the three forms. -/
theorem test_classify :
    classify 0x03#8 = .mapped 0#6 ∧ classify 0xFF#8 = .mapped 63#6 ∧
      classify 0xFE#8 = .swapped 127#7 ∧ classify 0x02#8 = .swapped 1#7 ∧
      classify 0x00#8 = .unmapped := by decide
/-- L2-B: ENC_MAPPED and ENC_SWAPPED at their edges. -/
theorem test_encode_entries :
    encMapped 63 = 0xFD#8 ∧ encMapped 3 = 0x0D#8 ∧ encSwapped 127 = 0xFE#8 ∧
      encSwapped 1 = 0x02#8 := by decide
/-- L2-C: FUSED[1..7] = 1 1 0 1 0 0 0 gives 3. -/
theorem test_first_fit :
    Bitmap.firstFree [true, true, false, true, false, false, false] 8 = some 3 := by decide
/-- L2-C: FRELEASE(0) and FRELEASE of a free frame raise the model fault. -/
theorem test_release_faults :
    frelease 0 full = .raised .releaseFreeFrame (full.markFaulted .releaseFreeFrame) ∧
      frelease 5 fresh = .raised .releaseFreeFrame (fresh.markFaulted .releaseFreeFrame) := by
  decide
/-- L2-E, lowest free slot: SUSED 1 0 1 sends frame 5 to slot 2. -/
theorem test_evict_lowest_slot :
    ∃ t, evict (full.putSlot 1 true |>.putSlot 3 true) = .ok () t ∧
      t.phys.read 16 = some 0x04#8 ∧ t.swap.read 8 = some 0x05#8 := ⟨_, rfl, by decide⟩

/-! ### Commands, one step each -/

/-- L2-H: INIT 259, 515 is the largest accepted kind, 64 frames and 128 slots. -/
theorem test_init_rounds_down :
    ∃ t, exec (.init 259 515) State.reset = .next t ∧ t.nframes = 64 ∧ t.nslots = 128 :=
  ⟨_, rfl, by decide⟩
/-- L2-H: INIT 260, 0 answers 0x6000. -/
theorem test_init_too_large :
    ∃ t, exec (.init 260 0) State.reset = .next t ∧ t.response = some 0x6000#16 ∧
      t.ready = false := ⟨_, rfl, by decide⟩
/-- L2-G, first bind: PCB 3 and root 4 on the base state, where frames 1 and 2 are taken. -/
theorem test_bind_first :
    ∃ t, exec (.bind 0) fresh = .next t ∧ t.response = some 0x0004#16 ∧
      t.phys.read 12 = some 0x04#8 := ⟨_, rfl, by decide⟩
/-- P5 step 4: the eviction stays, the control-block frame is released. -/
theorem test_bind_keeps_eviction :
    ∃ t, exec (.bind 0) oneLeaf = .next t ∧ t.response = some 0x1000#16 ∧
      t.phys.read 16 = some 0x02#8 ∧ t.frameUsed 5 = false := ⟨_, rfl, by decide⟩
/-- P2 step 6: FIFO eviction of the leaf at 16. -/
theorem test_fault_evicts_oldest :
    ∃ t, exec (.fault 1 0x0C#8) full = .next t ∧ t.response = some 0x0005#16 ∧
      t.phys.read 16 = some 0x02#8 ∧ t.queue = [17#8, 18#8, 19#8] := ⟨_, rfl, by decide⟩
/-- P2 step 7: the swap-in evicts 17 to slot 2, frees slot 1 and goes to the back of EQ. -/
theorem test_fault_swaps_in :
    ∃ t, exec (.fault 1 0x00#8) evictedOnce = .next t ∧ t.response = some 0x0006#16 ∧
      t.sused = [false, true, false] ∧ t.queue = [18#8, 19#8, 16#8] := ⟨_, rfl, by decide⟩
/-- P2 step 10, on `full`: PRD 17. -/
theorem test_prd :
    ∃ t, exec (.prd 17) full = .next t ∧ t.response = some 0x0019#16 := ⟨_, rfl, by decide⟩
/-- L2-H: PRD 32 is outside an arena of 8 frames. -/
theorem test_prd_outside :
    ∃ t, exec (.prd 32) full = .next t ∧ t.response = some 0x9000#16 := ⟨_, rfl, by decide⟩
/-- R261: PWR 20, 0xAB. -/
theorem test_pwr :
    ∃ t, exec (.pwr 20 0xAB#8) full = .next t ∧ t.response = some 0x0000#16 ∧
      t.phys.read 20 = some 0xAB#8 := ⟨_, rfl, by decide⟩
/-- L2-I: at power-on BIND 1 answers 0x5000. -/
theorem test_step_before_init :
    ∃ t, step (State.reset.withFetchWord 32 0x20010000) = .next t ∧
      t.response = some 0x5000#16 := ⟨_, rfl, by decide⟩
/-- L2-I: at power-on a reserved bit answers 0x7000, before the READY check. -/
theorem test_step_illegal_before_init :
    ∃ t, step (State.reset.withFetchWord 32 0x20010001) = .next t ∧
      t.response = some 0x7000#16 := ⟨_, rfl, by decide⟩
/-- L2-I: FAULT 0 on `full`, where pid 0 has no binding, answers 0x4000. -/
theorem test_step_not_bound :
    ∃ t, step (full.withFetchWord 32 0x30000000) = .next t ∧
      t.response = some 0x4000#16 := ⟨_, rfl, by decide⟩

/-! ### Witnesses of the obligations' hypotheses -/

theorem witness_DecodeOfEncode :
    (Instr.init 4095 4095).wellFormed = true ∧ (Instr.bind 255).wellFormed = true ∧
      (Instr.fault 255 0xFF#8).wellFormed = true ∧ (Instr.prd 255).wellFormed = true ∧
      (Instr.pwr 255 0xFF#8).wellFormed = true := by decide

theorem witness_EncodeOfDecode : decode 0x10FFFFFF#32 = .ok (.init 4095 4095) := by decide

theorem witness_EntryCodec :
    (63 ≤ 63 ∧ 1 ≤ 127 ∧ 127 ≤ 127) ∧
      ((0x0D#8).getLsbD 0 = true ∧ (0x0D#8).getLsbD 1 = false ∧ classify 0x0D#8 = .mapped 3#6) ∧
      ((0xFE#8).getLsbD 0 = false ∧ classify 0xFE#8 = .swapped 127#7) ∧
      ((0x00#8).getLsbD 0 = false ∧ classify 0x00#8 = .unmapped) := by decide

theorem witness_Falloc :
    fresh.WellShaped ∧ falloc fresh = some (3, fresh.putFrame 3 true) ∧ full.WellShaped ∧
      full.FramesFull :=
  ⟨fresh_shaped, by decide, full_shaped, by decide⟩

theorem witness_Salloc :
    full.WellShaped ∧ speek full = some 1 ∧ swapFull.WellShaped ∧ swapFull.SlotsFull :=
  ⟨full_shaped, by decide, swapFull_shaped, by decide⟩

theorem witness_Frelease :
    full.WellShaped ∧ full.nframes ≤ 8 ∧ fresh.WellShaped ∧ fresh.frameUsed 3 = false ∧
      (1 ≤ 7 ∧ 7 < full.nframes ∧ full.frameUsed 7 = true) :=
  ⟨full_shaped, by decide, fresh_shaped, by decide, by decide⟩

theorem witness_Srelease :
    evictedOnce.WellShaped ∧ evictedOnce.nslots ≤ 4 ∧ evictedOnce.slotUsed 3 = false ∧
      (1 ≤ 1 ∧ 1 < evictedOnce.nslots ∧ evictedOnce.slotUsed 1 = true) :=
  ⟨evictedOnce_shaped, by decide, by decide, by decide⟩

theorem witness_Queue : fresh.queue = [] ∧ full.queue = 16#8 :: [17#8, 18#8] := by decide

/-- One state for each clause of the eviction statement. -/
theorem witness_Evict :
    (fresh.WellShaped ∧ fresh.queue = []) ∧
    (swapFull.WellShaped ∧ swapFull.queue ≠ [] ∧ swapFull.SlotsFull) ∧
    ((full.putPhys 16 0x02#8).WellShaped ∧
      (full.putPhys 16 0x02#8).queue = 16#8 :: [17#8, 18#8] ∧
      speek (full.putPhys 16 0x02#8) = some 1 ∧
      (full.putPhys 16 0x02#8).entryFrame 16 = none) ∧
    (full.WellShaped ∧ full.queue = 16#8 :: [17#8, 18#8] ∧ speek full = some 1 ∧
      full.entryFrame 16 = some 5 ∧ 1 ≤ 5 ∧ 5 < full.nframes ∧ full.frameUsed 5 = true) :=
  ⟨⟨fresh_shaped, by decide⟩, ⟨swapFull_shaped, by decide, by decide⟩,
    ⟨full_shaped.putPhys _ _, by decide⟩, ⟨full_shaped, by decide⟩⟩

theorem witness_Allocation :
    (∃ t, fresh.WellShaped ∧ falloc fresh = some (3, t)) ∧
    (pinned.WellShaped ∧ pinned.FramesFull ∧ evict pinned = .err .noVictim pinned) ∧
    (∃ t, full.WellShaped ∧ full.FramesFull ∧ evict full = .ok () t) :=
  ⟨⟨_, fresh_shaped, rfl⟩, ⟨pinned_shaped, by decide, rfl⟩, ⟨_, full_shaped, by decide, rfl⟩⟩

theorem witness_Init :
    (259 / 4 ≤ 64 ∧ 515 / 4 ≤ 128) ∧ 64 < 260 / 4 ∧ 128 < 516 / 4 ∧
      1 ≤ full.npid ∧ full.npid ≤ 256 ∧
      ∃ t, exec (.init 259 515) full = .next t := ⟨by decide, by decide, by decide, by decide,
  by decide, _, rfl⟩

theorem witness_NotInit :
    State.reset.ready = false ∧ NotInit (.bind 1) ∧ NotInit (.fault 1 0x00#8) ∧ NotInit (.prd 0) ∧
      NotInit (.pwr 0 0x00#8) := ⟨rfl, trivial, trivial, trivial, trivial⟩

theorem witness_PidsBeyond : full.ready = true ∧ full.npid ≤ 2 := by decide

theorem witness_BoundPid : full.ready = true ∧ 1 < full.npid ∧ full.pdbr 1 ≠ 0#8 := by decide

theorem witness_UnboundPid : full.ready = true ∧ 0 < full.npid ∧ full.pdbr 0 = 0#8 := by decide

theorem witness_BindTakesTwoFrames :
    fresh.WellShaped ∧ fresh.ready = true ∧ 0 < fresh.npid ∧ fresh.pdbr 0 = 0#8 ∧
      1 ≤ 3 ∧ 3 < 4 ∧ 4 < fresh.nframes ∧ fresh.frameUsed 3 = false ∧ fresh.frameUsed 4 = false ∧
      ∀ i, i < 4 → 1 ≤ i → i ≠ 3 → fresh.frameUsed i = true := ⟨fresh_shaped, by decide⟩

/-- One state for each clause: the first allocation fails, the second fails, both succeed. -/
theorem witness_BindAllocations :
    (pinned.WellShaped ∧ pinned.ready = true ∧ 2 < pinned.npid ∧ pinned.pdbr 2 = 0#8 ∧
      allocEvict pinned = .err .noVictim pinned) ∧
    (∃ s₁, oneLeaf.WellShaped ∧ oneLeaf.ready = true ∧ 0 < oneLeaf.npid ∧ oneLeaf.pdbr 0 = 0#8 ∧
      allocEvict oneLeaf = .ok 5 s₁ ∧ allocEvict s₁ = .err .noVictim s₁) ∧
    (∃ s₁ s₂, full.WellShaped ∧ full.ready = true ∧ 0 < full.npid ∧ full.pdbr 0 = 0#8 ∧
      full.Ownership ∧ allocEvict full = .ok 5 s₁ ∧ allocEvict s₁ = .ok 6 s₂) :=
  ⟨⟨pinned_shaped, by decide, by decide, by decide, rfl⟩,
    ⟨_, oneLeaf_shaped, by decide, by decide, by decide, rfl, rfl⟩,
    ⟨_, _, full_shaped, by decide, by decide, by decide, full_owned, rfl, rfl⟩⟩

theorem witness_BindCompletes :
    full.WellShaped ∧ full.ready = true ∧ 0 < full.npid ∧ 1 < full.npid :=
  ⟨full_shaped, by decide⟩

theorem witness_FaultOnAMappedPath :
    full.ready = true ∧ 1 < full.npid ∧ full.pdbr 1 ≠ 0#8 ∧
      full.translation 1 0x0B#8 = some (18, 7) ∧
      ∀ x ∈ full.pathOf 1 0x0B#8, ∀ f ∈ x.2, 1 ≤ f ∧ f < full.nframes ∧ full.frameUsed f = true := by
  decide

theorem witness_FaultBuildsAWholePath :
    fresh.WellShaped ∧ fresh.ready = true ∧ 1 < fresh.npid ∧ fresh.pdbr 1 ≠ 0#8 ∧
      fresh.frameUsed (fresh.pdbr 1).toNat = true ∧
      fresh.phys.read (entryAddr (fresh.pdbr 1).toNat (pdIdx 0xFF#8)) = some 0x00#8 ∧
      1 ≤ 3 ∧ 3 < 4 ∧ 4 < 5 ∧ 5 < fresh.nframes ∧ fresh.frameUsed 3 = false ∧
      fresh.frameUsed 4 = false ∧ fresh.frameUsed 5 = false ∧
      ∀ i, i < 5 → 1 ≤ i → i ≠ 3 → i ≠ 4 → fresh.frameUsed i = true := ⟨fresh_shaped, by decide⟩

theorem witness_NewTables :
    (∃ t, fresh.WellShaped ∧ fresh.phys.read 8 = some 0x00#8 ∧ allocEvict fresh = .ok 3 t ∧
      8 / 4 ≠ 3) ∧
    (pinned.WellShaped ∧ pinned.phys.read 19 = some 0x00#8 ∧
      allocEvict pinned = .err .noVictim pinned) :=
  ⟨⟨_, fresh_shaped, by decide, rfl, by decide⟩, ⟨pinned_shaped, by decide, rfl⟩⟩

/-- P2 step 6 and P3 step 5. -/
theorem witness_FaultMapsAnEmptyLeaf :
    (∃ t, full.WellShaped ∧ full.Ownership ∧ full.ready = true ∧ 1 < full.npid ∧
      full.pdbr 1 ≠ 0#8 ∧ full.pathOf 1 0x0C#8 = [(8, some 3), (12, some 4), (19, none)] ∧
      full.phys.read 19 = some 0x00#8 ∧ allocEvict full = .ok 5 t) ∧
    (swapFull.WellShaped ∧ swapFull.Ownership ∧ swapFull.ready = true ∧ 1 < swapFull.npid ∧
      swapFull.pdbr 1 ≠ 0#8 ∧
      swapFull.pathOf 1 0x08#8 = [(8, some 3), (12, some 4), (18, none)] ∧
      swapFull.phys.read 18 = some 0x00#8 ∧ allocEvict swapFull = .err .noSwap swapFull) :=
  ⟨⟨_, full_shaped, full_owned, by decide, by decide, by decide, by decide, by decide, rfl⟩,
    ⟨swapFull_shaped, swapFull_owned, by decide, by decide, by decide, by decide, by decide, rfl⟩⟩

/-- P2 step 7 and P3 step 6. -/
theorem witness_FaultSwapsALeafBackIn :
    (∃ t, evictedOnce.WellShaped ∧ evictedOnce.Ownership ∧ evictedOnce.ready = true ∧
      1 < evictedOnce.npid ∧ evictedOnce.pdbr 1 ≠ 0#8 ∧
      evictedOnce.pathOf 1 0x00#8 = [(8, some 3), (12, some 4), (16, none)] ∧
      evictedOnce.entrySlot 16 = some 1 ∧ allocEvict evictedOnce = .ok 6 t) ∧
    (swapFull.WellShaped ∧ swapFull.Ownership ∧ swapFull.ready = true ∧ 1 < swapFull.npid ∧
      swapFull.pdbr 1 ≠ 0#8 ∧
      swapFull.pathOf 1 0x00#8 = [(8, some 3), (12, some 4), (16, none)] ∧
      swapFull.entrySlot 16 = some 1 ∧ allocEvict swapFull = .err .noSwap swapFull) :=
  ⟨⟨_, evictedOnce_shaped, evictedOnce_owned, by decide, by decide, by decide, by decide,
      by decide, rfl⟩,
    ⟨swapFull_shaped, swapFull_owned, by decide, by decide, by decide, by decide, by decide, rfl⟩⟩

/-- L2-F, corrupt cases at the three levels: `PWR 8, 0x01` and `PWR 8, 0x02` on the base; `PWR 12, 0xFD`
and `PWR 12, 0x02`; `PWR 16, 0x21` and `PWR 16, 0x08` on `full`. -/
theorem witness_FaultOnACorruptEntry :
    (full.ready = true ∧ 1 < full.npid ∧ full.pdbr 1 ≠ 0#8) ∧
    ((fresh.putPhys 8 0x01#8).pathOf 1 0x00#8 = [(8, some 0), (0, none)] ∧
      (fresh.putPhys 8 0x01#8).entryFrame 8 = some 0) ∧
    ((fresh.putPhys 8 0x02#8).pathOf 1 0x00#8 = [(8, none)] ∧
      (fresh.putPhys 8 0x02#8).entrySlot 8 = some 1) ∧
    ((full.putPhys 12 0xFD#8).pathOf 1 0x00#8 = [(8, some 3), (12, some 63), (252, none)] ∧
      1 ≤ 3 ∧ 3 < full.nframes ∧ full.frameUsed 3 = true ∧
      (full.putPhys 12 0xFD#8).entryFrame 12 = some 63 ∧ ¬ 63 < full.nframes) ∧
    ((full.putPhys 12 0x02#8).pathOf 1 0x00#8 = [(8, some 3), (12, none)] ∧
      (full.putPhys 12 0x02#8).entrySlot 12 = some 1) ∧
    ((full.putPhys 16 0x21#8).pathOf 1 0x00#8 = [(8, some 3), (12, some 4), (16, some 8)] ∧
      1 ≤ 4 ∧ 4 < full.nframes ∧ full.frameUsed 4 = true ∧
      (full.putPhys 16 0x21#8).entryFrame 16 = some 8 ∧ ¬ 8 < full.nframes) ∧
    ((full.putPhys 16 0x08#8).pathOf 1 0x00#8 = [(8, some 3), (12, some 4), (16, none)] ∧
      (full.putPhys 16 0x08#8).entrySlot 16 = some 4 ∧ ¬ 4 < full.nslots) := by decide

theorem witness_FaultCompletes :
    full.WellShaped ∧ full.ready = true ∧ 1 < full.npid ∧ full.pdbr 1 ≠ 0#8 :=
  ⟨full_shaped, by decide⟩

theorem witness_FaultWrites :
    ∃ t, full.WellShaped ∧ full.Ownership ∧ full.ready = true ∧ 1 < full.npid ∧
      full.pdbr 1 ≠ 0#8 ∧ exec (.fault 1 0x0C#8) full = .next t :=
  ⟨_, full_shaped, full_owned, by decide, by decide, by decide, rfl⟩

/-- Also the witness of the statement about a repeated FAULT. -/
theorem witness_SuccessfulFault :
    ∃ t, full.WellShaped ∧ full.Ownership ∧ exec (.fault 1 0x0C#8) full = .next t ∧
      t.Answered .ok 0#4 5#8 :=
  ⟨_, full_shaped, full_owned, rfl, by decide⟩

theorem witness_OffsetBits : (0x0C#8 : Byte) &&& 0xFC#8 = 0x0F#8 &&& 0xFC#8 := by decide

theorem pinned_exhausted : pinned.Exhausted where
  full := by decide
  pinned f hf := by
    have hlt : f < 5 := (pinned_shaped.frameUsed_inside hf).2
    interval_cases f <;> first | (cases hf; done) | exact .inl (by decide) |
      exact .inr (.inl (by decide))

theorem witness_PinnedFrames :
    pinned.WellShaped ∧ pinned.Ownership ∧ pinned.ready = true ∧ pinned.FramesFull ∧
      (∀ f, pinned.frameUsed f = true →
        pinned.IsControl f ∨ pinned.IsDirectory f ∨ pinned.IsMiddle f ∨ pinned.IsTable f) ∧
      1 < pinned.npid ∧ pinned.pdbr 1 ≠ 0#8 ∧ 2 < pinned.npid ∧ pinned.pdbr 2 = 0#8 :=
  ⟨pinned_shaped, pinned_owned, by decide, pinned_exhausted.full, pinned_exhausted.pinned,
    by decide⟩

/-- `FAULT 1, 0x00` as the next command of the exhausted machine; `PWR 3, 0xAB` would keep the duty
too, since it writes frame 0. -/
theorem witness_Exhaustion :
    (∃ t, (pinned.withFetchWord 32 0x30010000).WellShaped ∧
      (pinned.withFetchWord 32 0x30010000).Ownership ∧
      (pinned.withFetchWord 32 0x30010000).Exhausted ∧
      (pinned.withFetchWord 32 0x30010000).commands = 0x30010000#32 :: [] ∧
      decode 0x30010000#32 = .ok (.fault 1 0x00#8) ∧ NotInit (.fault 1 0x00#8) ∧
      HostDuty (pinned.withFetchWord 32 0x30010000) (.fault 1 0x00#8) ∧
      step (pinned.withFetchWord 32 0x30010000) = .next t) ∧
    HostDuty pinned (.pwr 3 0xAB#8) :=
  ⟨⟨_, shaped_of_check (by decide),
    ownership_of_check (shaped_of_check (by decide)) (by decide +kernel),
    ⟨pinned_exhausted.full, pinned_exhausted.pinned⟩, by decide, by decide, trivial, trivial, rfl⟩,
    by decide +kernel, by decide +kernel, by decide +kernel⟩

theorem witness_ArenaAccess :
    full.WellShaped ∧ full.ready = true ∧ 31 < 4 * full.nframes ∧ 4 * full.nframes ≤ 32 :=
  ⟨full_shaped, by decide⟩

/-- The clause of PRD and PWR before INIT. -/
theorem witness_ArenaBeforeInit :
    ({ full with ready := false } : State).WellShaped ∧
      ({ full with ready := false } : State).ready = false :=
  ⟨shaped_of_check (by decide), rfl⟩

theorem witness_StepRuns :
    full.faulted = none ∧ (full.withFetchWord 32 0x40001100).commands = 0x40001100#32 :: [] ∧
      decode 0x40001100#32 = .ok (.prd 17) ∧ (Instr.prd 17).wellFormed = true := by decide

/-- One word for each way to be illegal (R98). -/
theorem witness_IllegalWords :
    State.reset.faulted = none ∧
      (State.reset.withFetchWord 32 0x60000000).commands = 0x60000000#32 :: [] ∧
      IllegalWord 0x00000000#32 ∧ IllegalWord 0x60000000#32 ∧ IllegalWord 0xF0000000#32 ∧
      IllegalWord 0x11000000#32 ∧ IllegalWord 0x20010001#32 ∧ IllegalWord 0x30010100#32 ∧
      IllegalWord 0x40000401#32 ∧ IllegalWord 0x40010000#32 ∧ IllegalWord 0x50010000#32 ∧
      ¬ IllegalWord 0x20FF0000#32 := by
  refine ⟨rfl, rfl, ?_, ?_, ?_, ?_, ?_, ?_, ?_, ?_, ?_, ?_⟩ <;> decide

theorem witness_IdleAndFaulted :
    full.faulted = none ∧ full.commands = [] ∧
      (full.markFaulted .retryFailed).faulted = some .retryFailed := by decide

/-- A step on a running machine, with a command that keeps the host's duty. -/
theorem witness_Step :
    (full.withFetchWord 32 0x500014AB).Running ∧ (full.withFetchWord 32 0x500014AB).WellShaped ∧
      (full.withFetchWord 32 0x500014AB).commands = 0x500014AB#32 :: [] ∧
      decode 0x500014AB#32 = .ok (.pwr 20 0xAB#8) ∧
      ∃ t, step (full.withFetchWord 32 0x500014AB) = .next t :=
  ⟨⟨rfl, shaped_of_check (by decide)⟩, shaped_of_check (by decide), by decide, by decide, _, rfl⟩

theorem witness_HostDuty :
    (full.withFetchWord 32 0x500014AB).Ownership ∧
      HostDuty (full.withFetchWord 32 0x500014AB) (.pwr 20 0xAB#8) :=
  ⟨ownership_of_check (shaped_of_check (by decide)) (by decide +kernel),
    by decide +kernel, by decide +kernel, by decide +kernel⟩

/-- FAULT 1, 0x0C on `full`: pid 1 is bound, SWAP[4] changes, and frames 1 to 4 are a control block, a
root, a Middle-Directory and a Table. -/
theorem witness_WholeMachine :
    ∃ t, full.WellShaped ∧ full.Ownership ∧ NotInit (.fault 1 0x0C#8) ∧
      HostDuty full (.fault 1 0x0C#8) ∧ exec (.fault 1 0x0C#8) full = .next t ∧
      full.pdbr 1 ≠ 0#8 ∧ t.swap.read 4 ≠ full.swap.read 4 ∧
      full.IsControl 1 ∧ full.IsDirectory 2 ∧ full.IsMiddle 3 ∧ full.IsTable 4 :=
  ⟨_, full_shaped, full_owned, trivial, trivial, rfl, by decide, by decide, by decide, by decide,
    by decide +kernel, by decide +kernel⟩

theorem witness_OnlyInit :
    ∃ t, exec (.prd 17) full = .next t ∧ NotInit (.prd 17) ∧ full.ready = true :=
  ⟨_, rfl, trivial, by decide⟩

theorem witness_QueueHit :
    ∃ t, full.WellShaped ∧ exec (.fault 1 0x00#8) full = .next t ∧
      full.translation 1 0x00#8 = some (16, 5) :=
  ⟨_, full_shaped, rfl, by decide⟩

/-- Byte 7 of the control block of pid 1, and byte 3 of frame 0. -/
theorem witness_ControlBlockBytes :
    ∃ t, full.WellShaped ∧ full.Ownership ∧ 7 < 4 * full.nframes ∧ full.IsControl (7 / 4) ∧
      3 / 4 = 0 ∧ exec (.fault 1 0x0C#8) full = .next t :=
  ⟨_, full_shaped, full_owned, by decide, by decide, by decide, rfl⟩

end Sys2Proof.Tests
end

section
/-!
Proofs about the state through the commands (10_state.md): what no command but INIT touches, the shape,
and the ownership of frames and slots.
-/

namespace Sys2Proof.Machine

/-! ### Idle and faulted steps -/

/-- Settles O43, by the cases of a step. -/
theorem idleAndFaultedSteps : Obligations.IdleAndFaultedSteps := by
  unfold Obligations.IdleAndFaultedSteps
  constructor
  · intro s hf hc
    rcases step_eq s with ⟨r, hr, -⟩ | ⟨-, -, hs⟩ | ⟨w, rest, -, hw, -⟩
    · rw [hf] at hr; cases hr
    · exact hs
    · rw [hc] at hw; cases hw
  · intro s r hf
    rcases step_eq s with ⟨q, hq, hs⟩ | ⟨hn, -, -⟩ | ⟨w, rest, hn, -, -⟩
    · rw [hf] at hq; cases hq; exact hs
    · rw [hf] at hn; cases hn
    · rw [hf] at hn; cases hn

/-! ### Predicates that every update of the state keeps

The internal operations change the state by a few updates only. What all of them keep, every command
but INIT keeps, from every state, well shaped or not. -/

/-- Every update that the internal operations make keeps the predicate. -/
structure KeptByUpdates (R : State → Prop) : Prop where
  respond : ∀ {s} st info b, R s → R (s.respond st info b)
  putPhys : ∀ {s} a v, R s → R (s.putPhys a v)
  putSwap : ∀ {s} a v, R s → R (s.putSwap a v)
  afterDraws : ∀ {s}, R s → R s.afterDraws
  putProc : ∀ {s} p c r, R s → R (s.putProc p c r)
  putFrame : ∀ {s} f u, R s → R (s.putFrame f u)
  putSlot : ∀ {s} i u, R s → R (s.putSlot i u)
  pushQueue : ∀ {s} loc, R s → R (s.pushQueue loc)
  dropFront : ∀ {s}, R s → R s.dropFront

/-- Whatever state an operation leaves satisfies the predicate; after a raised fault there is none
(R296). -/
def Result.Leaves {α : Type} (R : State → Prop) (x : Result α) : Prop :=
  match x with
  | .ok _ t => R t
  | .err _ t => R t
  | .raised _ _ => True

/-- Whatever state a command answers satisfies the predicate. -/
def Answers (R : State → Prop) (x : Answer) : Prop :=
  match x with
  | .next t => R t
  | .fault _ => True
  | .refused _ => True

section Updates

variable {R : State → Prop} {s : State}

theorem Result.Leaves.bind {α β : Type} {x : Result α} {f : α → State → Result β}
    (hx : x.Leaves R) (hf : ∀ a t, R t → (f a t).Leaves R) : (x.bind f).Leaves R := by
  cases x with
  | ok a t => exact hf a t hx
  | err e t => exact hx
  | raised r t => trivial

variable (hR : KeptByUpdates R)
include hR

theorem Result.Leaves.answer {x : Result Byte} (hx : x.Leaves R) : Answers R x.answer := by
  cases x with
  | ok b t => exact hR.respond _ _ _ hx
  | err e t => exact hR.respond _ _ _ hx
  | raised r t => trivial

omit hR in
theorem readPhys_leaves (a : Nat) (h : R s) : (readPhys a s).Leaves R := by
  unfold readPhys; split
  · exact h
  · trivial

theorem writePhys_leaves (a : Nat) (v : Byte) (h : R s) : (writePhys a v s).Leaves R := by
  unfold writePhys; split
  · exact hR.putPhys _ _ h
  · trivial

theorem writeSwap_leaves (a : Nat) (v : Byte) (h : R s) : (writeSwap a v s).Leaves R := by
  unfold writeSwap; split
  · exact hR.putSwap _ _ h
  · trivial

theorem writeBytes_leaves (bs : List Byte) (a : Nat) (h : R s) : (writeBytes a bs s).Leaves R := by
  induction bs generalizing a s with
  | nil => exact h
  | cons b rest ih => exact (writePhys_leaves hR a b h).bind fun _ _ ht => ih (a + 1) ht

theorem drawFrame_leaves (g : Nat) (h : R s) : (drawFrame g s).Leaves R :=
  writeBytes_leaves hR _ _ (hR.afterDraws h)

theorem frelease_leaves (f : Nat) (h : R s) : (frelease f s).Leaves R := by
  unfold frelease; split
  · trivial
  · exact hR.putFrame _ _ h

theorem srelease_leaves (i : Nat) (h : R s) : (srelease i s).Leaves R := by
  unfold srelease; split
  · trivial
  · exact hR.putSlot _ _ h

theorem falloc_leaves {g : Nat} {t : State} (h : R s) (hf : falloc s = some (g, t)) : R t := by
  obtain ⟨-, -, -, -, rfl⟩ := falloc_some hf
  exact hR.putFrame _ _ h

theorem evictVictim_leaves (r : Byte) (slot v : Nat) (h : R s) :
    (evictVictim r slot v s).Leaves R :=
  (writePhys_leaves hR _ _ (hR.putSlot _ _ (hR.dropFront h))).bind fun _ _ ht =>
    (frelease_leaves hR _ ht).bind fun _ _ hu => writeSwap_leaves hR _ _ hu

theorem evict_leaves (h : R s) : (evict s).Leaves R := by
  unfold evict; split
  · exact h
  · split
    · exact h
    · refine (readPhys_leaves _ h).bind fun b t ht => ?_
      split
      · split
        · exact evictVictim_leaves hR _ _ _ ht
        · exact ht
      · exact ht
      · exact ht

theorem retryAlloc_leaves (h : R s) : (retryAlloc s).Leaves R := by
  unfold retryAlloc; split
  · next hf => exact falloc_leaves hR h hf
  · trivial

theorem allocEvict_leaves (h : R s) : (allocEvict s).Leaves R := by
  unfold allocEvict; split
  · next hf => exact falloc_leaves hR h hf
  · exact (evict_leaves hR h).bind fun _ _ ht => retryAlloc_leaves hR ht

theorem mapTable_leaves (loc : Nat) (h : R s) : (mapTable loc s).Leaves R :=
  (allocEvict_leaves hR h).bind fun _ _ h₁ =>
    (writeBytes_leaves hR _ _ h₁).bind fun _ _ h₂ =>
      (writePhys_leaves hR _ _ h₂).bind fun _ _ h₃ => h₃

theorem mapLeaf_leaves (loc : Nat) (h : R s) : (mapLeaf loc s).Leaves R :=
  (allocEvict_leaves hR h).bind fun _ _ h₁ =>
    (drawFrame_leaves hR _ h₁).bind fun _ _ h₂ =>
      (writePhys_leaves hR _ _ h₂).bind fun _ _ h₃ => hR.pushQueue _ h₃

theorem swapIn_leaves (loc slot : Nat) (h : R s) : (swapIn loc slot s).Leaves R :=
  (allocEvict_leaves hR h).bind fun _ _ h₁ =>
    (drawFrame_leaves hR _ h₁).bind fun _ _ h₂ =>
      (srelease_leaves hR _ h₂).bind fun _ _ h₃ =>
        (writePhys_leaves hR _ _ h₃).bind fun _ _ h₄ => hR.pushQueue _ h₄

omit hR in
theorem descend_leaves (g : Nat) (h : R s) : (descend g s).Leaves R := by
  unfold descend; split
  · exact h
  · exact h

theorem create_leaves (lvl : Level) (loc : Nat) (h : R s) : (create lvl loc s).Leaves R := by
  cases lvl with
  | directory => exact mapTable_leaves hR loc h
  | middleDirectory => exact mapTable_leaves hR loc h
  | table => exact mapLeaf_leaves hR loc h

theorem restore_leaves (lvl : Level) (loc slot : Nat) (h : R s) :
    (restore lvl loc slot s).Leaves R := by
  cases lvl with
  | directory => exact h
  | middleDirectory => exact h
  | table =>
    simp only [restore]; split
    · exact swapIn_leaves hR loc slot h
    · exact h

theorem walkLevel_leaves (lvl : Level) (loc : Nat) (h : R s) : (walkLevel lvl loc s).Leaves R := by
  refine (readPhys_leaves _ h).bind fun b t ht => ?_
  split
  · exact descend_leaves _ ht
  · exact create_leaves hR lvl loc ht
  · exact restore_leaves hR lvl loc _ ht

theorem walk_answers (levels : List (Level × BitVec 2)) (f : Nat) (h : R s) :
    Answers R (walk levels f s) := by
  induction levels generalizing f s with
  | nil => exact hR.respond _ _ _ h
  | cons x rest ih =>
    obtain ⟨lvl, idx⟩ := x
    have hl := walkLevel_leaves hR lvl (entryAddr f idx) h
    unfold walk
    cases hw : walkLevel lvl (entryAddr f idx) s with
    | ok g t => rw [hw] at hl; exact ih g hl
    | err e t => rw [hw] at hl; exact hR.respond _ _ _ hl
    | raised r t => trivial

theorem bindRoot_leaves (pid control : Nat) (h : R s) : (bindRoot pid control s).Leaves R := by
  have ha := allocEvict_leaves hR h
  unfold bindRoot
  cases he : allocEvict s with
  | ok root t =>
    rw [he] at ha
    exact (writeBytes_leaves hR _ _ ha).bind fun _ _ h₁ =>
      (writeBytes_leaves hR _ _ h₁).bind fun _ _ h₂ => hR.putProc _ _ _ h₂
  | err e t =>
    rw [he] at ha
    exact (frelease_leaves hR control ha).bind fun _ _ h₁ => h₁
  | raised r t => trivial

theorem bindProc_leaves (pid : Nat) (h : R s) : (bindProc pid s).Leaves R := by
  unfold bindProc; split
  · exact (allocEvict_leaves hR h).bind fun control _ h₁ => bindRoot_leaves hR pid control h₁
  · exact h

theorem whenReady_answers {run : State → Answer} (h : R s) (hrun : Answers R (run s)) :
    Answers R (whenReady s run) := by
  unfold whenReady; split
  · exact hrun
  · exact hR.respond _ _ _ h

/-- Every command but INIT keeps what every update keeps. -/
theorem exec_answers {i : Instr} (hi : NotInit i) (h : R s) : Answers R (exec i s) := by
  cases i with
  | init psize ssize => exact hi.elim
  | bind pid =>
    rw [exec_bind, execBind]
    refine whenReady_answers hR h ?_
    split
    · exact hR.respond _ _ _ h
    · exact (bindProc_leaves hR pid h).answer hR
  | fault pid va =>
    rw [exec_fault, execFault]
    refine whenReady_answers hR h ?_
    split
    · exact hR.respond _ _ _ h
    · split
      · exact hR.respond _ _ _ h
      · exact walk_answers hR _ _ h
  | prd addr =>
    rw [exec_prd, execPrd]
    refine whenReady_answers hR h ?_
    split
    · exact (readPhys_leaves addr h).answer hR
    · exact hR.respond _ _ _ h
  | pwr addr data =>
    rw [exec_pwr, execPwr]
    refine whenReady_answers hR h ?_
    split
    · refine Result.Leaves.answer hR ((writePhys_leaves hR addr data h).bind fun _ t ht => ?_)
      exact ht
    · exact hR.respond _ _ _ h

end Updates

/-! ### The configuration -/

/-- NFRAMES, NSLOTS and READY are as they were. -/
def State.SameConfiguration (s t : State) : Prop :=
  t.nframes = s.nframes ∧ t.nslots = s.nslots ∧ t.ready = s.ready

/-- No update writes the configuration. -/
theorem State.sameConfiguration_kept (s : State) : KeptByUpdates s.SameConfiguration :=
  ⟨fun _ _ _ h => h, fun _ _ h => h, fun _ _ h => h, fun h => h, fun _ _ _ h => h,
    fun _ _ h => h, fun _ _ h => h, fun _ h => h, fun h => h⟩

theorem exec_sameConfiguration {s t : State} {i : Instr} (hi : NotInit i)
    (he : exec i s = .next t) : s.SameConfiguration t := by
  have h := exec_answers s.sameConfiguration_kept hi ⟨rfl, rfl, rfl⟩
  rwa [he] at h

/-- The two answers of INIT (R252, R253). -/
theorem execInit_cases (psize ssize : Nat) (s : State) :
    (psize / 4 ≤ 64 ∧ ssize / 4 ≤ 128 ∧ execInit psize ssize s =
      .next ((s.initialise (psize / 4) (ssize / 4)).respond .ok 0#4 0#8)) ∨
    execInit psize ssize s = .next (s.respond .badConfig 0#4 0#8) := by
  by_cases h : psize / 4 ≤ 64 ∧ ssize / 4 ≤ 128
  · exact .inl ⟨h.1, h.2, execInit_eq h.1 h.2 s⟩
  · refine .inr ?_
    rw [execInit, if_neg (by
      simp only [sizesFit, Bool.and_eq_true, decide_eq_true_eq]; exact h), failWith]

/-- Settles O48: no update writes the configuration, and INIT sets READY or changes nothing. -/
theorem onlyInitWritesTheConfiguration : Obligations.OnlyInitWritesTheConfiguration := by
  unfold Obligations.OnlyInitWritesTheConfiguration
  intro s t i he
  refine ⟨fun hi => exec_sameConfiguration hi he, fun hr => ?_⟩
  by_cases hi : NotInit i
  · obtain ⟨-, -, h⟩ := exec_sameConfiguration hi he
    rw [h, hr]
  · cases i with
    | init psize ssize =>
      rw [exec_init] at he
      rcases execInit_cases psize ssize s with ⟨-, -, h⟩ | h
      · rw [h] at he; cases he; rfl
      · rw [h] at he; cases he; exact hr
    | bind | fault | prd | pwr => exact (hi trivial).elim

/-! ### The shape and the bindings -/

/-- BIND_PROC of an unbound pid (R231), from a well-shaped state: a failed first allocation changes
nothing, a failed second one leaves what the first did but its frame, and two frames make a
binding. -/
theorem bindProc_cases {s : State} (h : s.WellShaped) {pid : Nat} (hu : s.pdbr pid = 0#8) :
    (∃ e, allocEvict s = .err e s ∧ bindProc pid s = .err e s) ∨
    (∃ c s₁ e, allocEvict s = .ok c s₁ ∧ s.Allocated c s₁ ∧ allocEvict s₁ = .err e s₁ ∧
      bindProc pid s = .err e (s₁.putFrame c false)) ∨
    (∃ c s₁ r s₂, allocEvict s = .ok c s₁ ∧ s.Allocated c s₁ ∧ allocEvict s₁ = .ok r s₂ ∧
      s₁.Allocated r s₂ ∧ bindProc pid s = .ok (BitVec.ofNat 8 r)
        (((s₂.putBytes (frameBase r) [0x00#8, 0x00#8, 0x00#8, 0x00#8]).putBytes (frameBase c)
          (pcbBytes r)).putProc pid c r)) := by
  rcases allocEvict_cases h with ⟨c, s₁, ha, hc⟩ | ⟨e, ha⟩
  · have hb : bindProc pid s = bindRoot pid c s₁ := by simp [bindProc, hu, ha]
    have hcn : c < s₁.nframes := by rw [hc.nframes]; exact hc.inside
    rcases allocEvict_cases hc.shaped with ⟨r, s₂, ha₂, hr⟩ | ⟨e, ha₂⟩
    · refine .inr (.inr ⟨c, s₁, r, s₂, ha, hc, ha₂, hr, ?_⟩)
      have hrn : r < s₂.nframes := by rw [hr.nframes]; exact hr.inside
      have hcn₂ : c < s₂.nframes := by rw [hr.nframes]; exact hcn
      have hpcb := writeBytes_eq_ok (a := frameBase c) (bs := pcbBytes r)
        fun _ hk => (hr.shaped.putBytes (frameBase r) [0x00#8, 0x00#8, 0x00#8, 0x00#8]).frame_bytes
          hcn₂ hk
      simp only [hb, bindRoot, ha₂, registerBinding, zeroFrame_eq_ok hr.shaped hrn,
        Result.bind_ok, hpcb]
    · refine .inr (.inl ⟨c, s₁, e, ha, hc, ha₂, ?_⟩)
      simp only [hb, bindRoot, ha₂, frelease_eq_ok hc.pos hcn hc.used, Result.bind_ok]
  · exact .inl ⟨e, ha, by simp [bindProc, hu, ha]⟩

/-- What stays through every command but INIT: the shape, the control state and every binding that
was there (R22). -/
structure State.Continues (s t : State) : Prop where
  shaped : t.WellShaped
  control : s.SameControl t
  bound : ∀ p, s.pdbr p ≠ 0#8 → t.proc p = s.proc p

theorem State.Kept.continues {s t : State} (h : s.Kept t) : s.Continues t :=
  ⟨h.shaped, h.control, fun _ _ => by rw [State.proc, State.proc, h.procs]⟩

theorem State.Continues.respond {s t : State} (h : s.Continues t) (st : Status) (info : BitVec 4)
    (b : Byte) : s.Continues (t.respond st info b) :=
  ⟨h.shaped.respond st info b, h.control, h.bound⟩

theorem State.WellShaped.continues_respond {s : State} (h : s.WellShaped) (st : Status)
    (info : BitVec 4) (b : Byte) : s.Continues (s.respond st info b) :=
  (State.Kept.refl h).continues.respond st info b

/-- A new binding changes the registers of its own pid alone, and that pid was not bound. -/
theorem State.Kept.continues_putProc {s t : State} (h : s.Kept t)
    {pid c r : Nat} (hp : pid < s.npid) (hu : s.pdbr pid = 0#8) (hc : 1 ≤ c) (hcn : c < s.nframes)
    (hr : 1 ≤ r) (hrn : r < s.nframes) : s.Continues (t.putProc pid c r) := by
  have hn := h.nframes
  obtain ⟨-, -, -, -, hnpid, -⟩ := h.control
  refine ⟨h.shaped.putProc hc (hn ▸ hcn) hr (hn ▸ hrn), h.control, fun p hb => ?_⟩
  have hne : p ≠ pid := by rintro rfl; exact hb hu
  rw [h.shaped.proc_putProc (hnpid ▸ hp), if_neg hne]
  exact h.continues.bound p hb

/-- BIND_PROC of an unbound pid ends with a result that continues the state (R231). -/
theorem bindProc_continues {s : State} (h : s.WellShaped) {pid : Nat} (hp : pid < s.npid)
    (hu : s.pdbr pid = 0#8) : ∃ t, (bindProc pid s).answer = .next t ∧ s.Continues t := by
  rcases bindProc_cases h hu with ⟨e, -, hb⟩ | ⟨c, s₁, e, -, hc, -, hb⟩ |
    ⟨c, s₁, r, s₂, -, hc, -, hr, hb⟩
  · exact ⟨_, by rw [hb, Result.answer_err], h.continues_respond _ _ _⟩
  · have hk : s.Kept (s₁.putFrame c false) :=
      hc.toKept.trans ⟨hc.shaped.putFrame c false, ⟨rfl, rfl, rfl, rfl, rfl, rfl⟩, rfl⟩
    exact ⟨_, by rw [hb, Result.answer_err], hk.continues.respond _ _ _⟩
  · have hk₂ := hr.kept_bytes (frameBase r) [0x00#8, 0x00#8, 0x00#8, 0x00#8]
    have hk := (hc.toKept.trans hk₂).trans
      ⟨hk₂.shaped.putBytes (frameBase c) (pcbBytes r), ⟨rfl, rfl, rfl, rfl, rfl, rfl⟩, rfl⟩
    exact ⟨_, by rw [hb, Result.answer_ok],
      (hk.continues_putProc hp hu hc.pos hc.inside hr.pos (hc.nframes ▸ hr.inside)).respond _ _ _⟩

/-- FAULT of a bound pid is the walk from its root (R256). -/
theorem execFault_bound {s : State} {pid : Nat} {va : Byte} (hr : s.ready = true)
    (hp : pid < s.npid) (hb : s.pdbr pid ≠ 0#8) :
    execFault pid va s = walk (decompose va) (s.pdbr pid).toNat s := by
  rw [execFault, whenReady_ready hr, if_neg (by omega), if_neg hb]

/-- BIND of a pid in range runs BIND_PROC (R254). -/
theorem execBind_inside {s : State} {pid : Nat} (hr : s.ready = true) (hp : pid < s.npid) :
    execBind pid s = (bindProc pid s).answer := by
  rw [execBind, whenReady_ready hr, if_neg (by omega)]

/-- PRD inside the arena of a well-shaped state (R260). -/
theorem execPrd_inside {s : State} (h : s.WellShaped) {a : Nat} (hr : s.ready = true)
    (ha : a < Config.frameBytes * s.nframes) :
    ∃ b, execPrd a s = .next (s.respond .ok 0#4 b) := by
  obtain ⟨b, hb⟩ := Option.isSome_iff_exists.1 ((h.phys_exists a).2 ha)
  refine ⟨b, ?_⟩
  rw [execPrd, whenReady_ready hr, if_pos (by simpa [inArena] using ha), readPhys_eq_ok hb,
    Result.answer_ok]

/-- PWR inside the arena of a well-shaped state (R261). -/
theorem execPwr_inside {s : State} (h : s.WellShaped) {a : Nat} (v : Byte) (hr : s.ready = true)
    (ha : a < Config.frameBytes * s.nframes) :
    execPwr a v s = .next ((s.putPhys a v).respond .ok 0#4 0#8) := by
  rw [execPwr, whenReady_ready hr, if_pos (by simpa [inArena] using ha),
    writePhys_eq_ok ((h.phys_exists a).2 ha), Result.bind_ok, Result.answer_ok]

/-- Before INIT every other command is refused (R251). -/
theorem exec_not_ready {s : State} (hr : s.ready = false) {i : Instr} (hi : NotInit i) :
    exec i s = .next (s.respond .notInit 0#4 0#8) := by
  cases i with
  | init psize ssize => exact hi.elim
  | bind pid => rw [exec_bind, execBind, whenReady_not_ready hr]
  | fault pid va => rw [exec_fault, execFault, whenReady_not_ready hr]
  | prd addr => rw [exec_prd, execPrd, whenReady_not_ready hr]
  | pwr addr data => rw [exec_pwr, execPwr, whenReady_not_ready hr]

/-- A command other than INIT changes nothing but the response, or it is a BIND_PROC of an unbound pid,
a walk from a bound pid's root, or a write of the host. -/
theorem exec_notInit_cases {s : State} (h : s.WellShaped) {i : Instr} (hi : NotInit i) :
    (∃ st b, exec i s = .next (s.respond st 0#4 b)) ∨
    (∃ pid, i = .bind pid ∧ pid < s.npid ∧ s.pdbr pid = 0#8 ∧
      exec i s = (bindProc pid s).answer) ∨
    (∃ pid va, i = .fault pid va ∧ pid < s.npid ∧ s.pdbr pid ≠ 0#8 ∧
      exec i s = walk (decompose va) (s.pdbr pid).toNat s) ∨
    (∃ a v, i = .pwr a v ∧ a < Config.frameBytes * s.nframes ∧
      exec i s = .next ((s.putPhys a v).respond .ok 0#4 0#8)) := by
  cases hr : s.ready with
  | false => exact .inl ⟨.notInit, 0#8, exec_not_ready hr hi⟩
  | true =>
    cases i with
    | init psize ssize => exact hi.elim
    | bind pid =>
      by_cases hp : pid < s.npid
      · rw [exec_bind, execBind_inside hr hp]
        by_cases hb : s.pdbr pid = 0#8
        · exact .inr (.inl ⟨pid, rfl, hp, hb, rfl⟩)
        · exact .inl ⟨.ok, s.pdbr pid, by rw [bindProc, if_neg hb, Result.answer_ok]⟩
      · exact .inl ⟨.badPid, 0#8, by
          rw [exec_bind, execBind, whenReady_ready hr, if_pos (by omega), failWith]⟩
    | fault pid va =>
      by_cases hp : pid < s.npid
      · by_cases hb : s.pdbr pid = 0#8
        · exact .inl ⟨.notBound, 0#8, by
            rw [exec_fault, execFault, whenReady_ready hr, if_neg (by omega), if_pos hb,
              failWith]⟩
        · exact .inr (.inr (.inl ⟨pid, va, rfl, hp, hb, execFault_bound hr hp hb⟩))
      · exact .inl ⟨.badPid, 0#8, by
          rw [exec_fault, execFault, whenReady_ready hr, if_pos (by omega), failWith]⟩
    | prd a =>
      by_cases ha : a < Config.frameBytes * s.nframes
      · obtain ⟨b, hb⟩ := execPrd_inside h hr ha
        exact .inl ⟨.ok, b, hb⟩
      · exact .inl ⟨.badAddr, 0#8, by
          rw [exec_prd, execPrd, whenReady_ready hr, if_neg (by simpa [inArena] using ha),
            failWith]⟩
    | pwr a v =>
      by_cases ha : a < Config.frameBytes * s.nframes
      · exact .inr (.inr (.inr ⟨a, v, rfl, ha, execPwr_inside h v hr ha⟩))
      · exact .inl ⟨.badAddr, 0#8, by
          rw [exec_pwr, execPwr, whenReady_ready hr, if_neg (by simpa [inArena] using ha),
            failWith]⟩

/-- Every command but INIT answers from a well-shaped state, and continues it. -/
theorem exec_continues {s : State} (h : s.WellShaped) {i : Instr} (hi : NotInit i) :
    ∃ t, exec i s = .next t ∧ s.Continues t := by
  rcases exec_notInit_cases h hi with ⟨st, b, he⟩ | ⟨pid, -, hp, hu, he⟩ |
    ⟨pid, va, -, hp, hb, he⟩ | ⟨a, v, -, -, he⟩
  · exact ⟨_, he, h.continues_respond _ _ _⟩
  · rw [he]; exact bindProc_continues h hp hu
  · obtain ⟨-, hroot⟩ := h.pdbr_inside hp hb
    obtain ⟨t, hw, hk⟩ := walk_cases (decompose va) h hroot
    exact ⟨t, he.trans hw, hk.continues⟩
  · exact ⟨_, he, ((State.Kept.refl h).putPhys a v).continues.respond _ _ _⟩

/-- Settles O47: every command but INIT continues a well-shaped state, its bindings included. -/
theorem bindingsStayUntilInit : Obligations.BindingsStayUntilInit := by
  unfold Obligations.BindingsStayUntilInit
  intro s t i p hs hi he hb
  obtain ⟨u, hu, hc⟩ := exec_continues hs hi
  rw [he] at hu
  cases hu
  have hp := hc.bound p hb
  exact ⟨congrArg ProcRegs.pdbr hp, congrArg ProcRegs.pcb hp⟩

/-- An accepted INIT gives every item its shape, whatever was there (R252). -/
theorem initialise_wellShaped {s : State} (h1 : 1 ≤ s.npid) (h2 : s.npid ≤ 256) {nf ns : Nat}
    (hf : nf ≤ 64) (hn : ns ≤ 128) : (s.initialise nf ns).WellShaped where
  npid_pos := h1
  npid_le := h2
  nframes_le := hf
  nslots_le := hn
  phys_addrs := Memory.addrs_zeroed _
  swap_addrs := Memory.addrs_zeroed _
  fused_length := List.length_replicate
  sused_length := List.length_replicate
  procs_length := List.length_replicate
  procs_bound := fun r hr => .inl (by
    rw [State.initialise_procs] at hr
    obtain ⟨-, rfl⟩ := List.mem_replicate.1 hr
    exact ⟨rfl, rfl⟩)
  queue_inside := fun r hr => by simp at hr

/-- Every command keeps the shape (R22, R26 to R31). -/
theorem exec_wellShaped {s t : State} (h : s.WellShaped) {i : Instr} (he : exec i s = .next t) :
    t.WellShaped := by
  by_cases hi : NotInit i
  · obtain ⟨u, hu, hc⟩ := exec_continues h hi
    rw [he] at hu; cases hu
    exact hc.shaped
  · cases i with
    | init psize ssize =>
      rw [exec_init] at he
      rcases execInit_cases psize ssize s with ⟨hp, hs, hx⟩ | hx
      · rw [hx] at he; cases he
        exact (initialise_wellShaped h.npid_pos h.npid_le hp hs).respond _ _ _
      · rw [hx] at he; cases he
        exact h.respond _ _ _
    | bind | fault | prd | pwr => exact (hi trivial).elim

/-- What a step can do: it stays where it is, it refuses an illegal word, or it runs the command of
the next word (R20, R250). -/
theorem step_next_cases {s t : State} (h : step s = .next t) :
    t = s ∨ (∃ rest, t = (s.issue rest).respond .illegal 0#4 0#8) ∨
    (∃ w rest i, s.commands = w :: rest ∧ decode w = .ok i ∧ exec i (s.issue rest) = .next t) := by
  rcases step_eq s with ⟨r, -, hs⟩ | ⟨-, -, hs⟩ | ⟨w, rest, -, hc, hs⟩
  · rw [hs] at h; cases h
  · rw [hs] at h; cases h; exact .inl rfl
  · rcases receive_eq w (s.issue rest) with ⟨i, hd, hx⟩ | ⟨r, -, hx⟩
    · exact .inr (.inr ⟨w, rest, i, hc, hd, by rw [← hx, ← hs, h]⟩)
    · rw [hs, hx] at h; cases h; exact .inr (.inl ⟨rest, rfl⟩)

/-- Settles O44, by the cases of a step. -/
theorem stepKeepsTheShape : Obligations.StepKeepsTheShape := by
  unfold Obligations.StepKeepsTheShape
  intro s t h hstep
  rcases step_next_cases hstep with rfl | ⟨rest, rfl⟩ | ⟨w, rest, i, -, -, he⟩
  · exact h
  · exact (h.issue rest).respond _ _ _
  · exact exec_wellShaped (h.issue rest) he

end Sys2Proof.Machine
end

section
/-!
The ownership invariants of R34 and R35 through the commands. While a command runs, frames it has taken
are allocated and have no owner yet: `State.Accounted` is the invariant with those frames named. Each
internal operation takes a frame, loses a leaf's frame, or hands a held frame to its owner.
-/

namespace Sys2Proof.Machine

/-! ### Entries as forms -/

/-- The frame of a Mapped entry (R170). -/
def PteForm.frame (x : PteForm) : Option Nat :=
  match x with
  | .mapped f => some f.toNat
  | .unmapped => none
  | .swapped _ => none

/-- The slot of a Swapped entry (R170). -/
def PteForm.slot (x : PteForm) : Option Nat :=
  match x with
  | .swapped i => some i.toNat
  | .mapped _ => none
  | .unmapped => none

theorem State.entryFrame_eq (s : State) (a : Nat) :
    s.entryFrame a = (s.phys.read a).bind fun b => (classify b).frame := by
  unfold State.entryFrame
  cases s.phys.read a with
  | none => rfl
  | some b => cases hc : classify b <;> simp [hc, PteForm.frame]

theorem State.entrySlot_eq (s : State) (a : Nat) :
    s.entrySlot a = (s.phys.read a).bind fun b => (classify b).slot := by
  unfold State.entrySlot
  cases s.phys.read a with
  | none => rfl
  | some b => cases hc : classify b <;> simp [hc, PteForm.slot]

theorem entryFrame_congr {s t : State} {a : Nat} (h : t.phys.read a = s.phys.read a) :
    t.entryFrame a = s.entryFrame a := by
  rw [State.entryFrame_eq, State.entryFrame_eq, h]

theorem entrySlot_congr {s t : State} {a : Nat} (h : t.phys.read a = s.phys.read a) :
    t.entrySlot a = s.entrySlot a := by
  rw [State.entrySlot_eq, State.entrySlot_eq, h]

theorem entryFrame_of_read {s : State} {a : Nat} {b : Byte} (h : s.phys.read a = some b) :
    s.entryFrame a = (classify b).frame := by
  rw [State.entryFrame_eq, h]; rfl

theorem entrySlot_of_read {s : State} {a : Nat} {b : Byte} (h : s.phys.read a = some b) :
    s.entrySlot a = (classify b).slot := by
  rw [State.entrySlot_eq, h]; rfl

/-- ENC_MAPPED of a frame that exists maps that frame (R171, R173). -/
theorem frame_encMapped {g : Nat} (h : g < 64) : (classify (encMapped g)).frame = some g := by
  have hall : ∀ g < 64, (classify (encMapped g)).frame = some g := by decide
  exact hall g h

theorem slot_encMapped {g : Nat} (h : g < 64) : (classify (encMapped g)).slot = none := by
  have hall : ∀ g < 64, (classify (encMapped g)).slot = none := by decide
  exact hall g h

/-- ENC_SWAPPED of a slot that has a bit names that slot (R172, R173). -/
theorem slot_encSwapped {i : Nat} (h1 : 1 ≤ i) (h : i < 128) :
    (classify (encSwapped i)).slot = some i := by
  have hall : ∀ i < 128, 1 ≤ i → (classify (encSwapped i)).slot = some i := by decide
  exact hall i h h1

theorem frame_encSwapped {i : Nat} (h : i < 128) : (classify (encSwapped i)).frame = none := by
  have hall : ∀ i < 128, (classify (encSwapped i)).frame = none := by decide
  exact hall i h

/-- The entry at an address that exists, after a write of one byte. -/
theorem entryFrame_write {s t : State} {x : Nat} {b : Byte} (hx : (s.phys.read x).isSome = true)
    (hw : t.phys = s.phys.write x b) (a : Nat) :
    t.entryFrame a = if a = x then (classify b).frame else s.entryFrame a := by
  have hr := Memory.read_write hx b (b := a)
  rw [← hw] at hr
  split
  · next e => rw [if_pos e] at hr; exact entryFrame_of_read hr
  · next e => rw [if_neg e] at hr; exact entryFrame_congr hr

theorem entrySlot_write {s t : State} {x : Nat} {b : Byte} (hx : (s.phys.read x).isSome = true)
    (hw : t.phys = s.phys.write x b) (a : Nat) :
    t.entrySlot a = if a = x then (classify b).slot else s.entrySlot a := by
  have hr := Memory.read_write hx b (b := a)
  rw [← hw] at hr
  split
  · next e => rw [if_pos e] at hr; exact entrySlot_of_read hr
  · next e => rw [if_neg e] at hr; exact entrySlot_congr hr

/-- Reading after the four bytes of a frame have been replaced. -/
theorem State.WellShaped.read_putBytes_frame {s : State} (h : s.WellShaped) {g : Nat}
    (hg : g < s.nframes) {bs : List Byte} (hb : bs.length = 4) (a : Nat) :
    (s.putBytes (frameBase g) bs).phys.read a =
      if frameOf a = g then bs[a - frameBase g]? else s.phys.read a := by
  rw [State.putBytes_phys, Memory.read_writeAll fun k hk => h.frame_bytes hg (hb ▸ hk), hb]
  have hiff : (frameBase g ≤ a ∧ a < frameBase g + 4) ↔ frameOf a = g := by
    simp only [frameBase, frameOf, Config.frameBytes]; omega
  simp only [hiff]

/-- A frame that has been zero-filled reads as four empty entries (R191). -/
theorem State.WellShaped.read_zeroed_frame {s : State} (h : s.WellShaped) {g : Nat}
    (hg : g < s.nframes) {a : Nat} (ha : frameOf a = g) :
    (s.putBytes (frameBase g) [0x00#8, 0x00#8, 0x00#8, 0x00#8]).phys.read a = some 0x00#8 := by
  rw [h.read_putBytes_frame hg rfl, if_pos ha]
  have hk : a - frameBase g < 4 := by
    simp only [frameBase, frameOf, Config.frameBytes] at *; omega
  have hall : ∀ k < 4, [0x00#8, 0x00#8, 0x00#8, 0x00#8][k]? = some 0x00#8 := by decide
  exact hall _ hk

/-- Every entry of the frame is Unmapped. -/
def State.Blank (s : State) (g : Nat) : Prop := ∀ a, frameOf a = g → s.phys.read a = some 0x00#8

theorem State.Blank.entryFrame {s : State} {a : Nat} (h : s.Blank (frameOf a)) :
    s.entryFrame a = none := by
  rw [entryFrame_of_read (h a rfl)]; rfl

theorem State.Blank.entrySlot {s : State} {a : Nat} (h : s.Blank (frameOf a)) :
    s.entrySlot a = none := by
  rw [entrySlot_of_read (h a rfl)]; rfl

/-- The entries of a table frame lie in it (R163). -/
@[simp] theorem frameOf_entryAddr (t : Nat) (idx : BitVec 2) : frameOf (entryAddr t idx) = t := by
  have := idx.isLt
  simp only [frameOf, entryAddr, Config.frameBytes, Config.entriesPerTable]
  omega

/-! ### Kinds of frames and owners after an update -/

section Kinds

variable {s t : State}

theorem State.Kept.npid (h : s.Kept t) : t.npid = s.npid := by
  obtain ⟨-, -, -, -, hn, -⟩ := h.control
  exact hn

theorem State.Kept.proc (h : s.Kept t) (p : Nat) : t.proc p = s.proc p := by
  rw [State.proc, State.proc, h.procs]

theorem State.Kept.isDirectory_iff (h : s.Kept t) (f : Nat) :
    t.IsDirectory f ↔ s.IsDirectory f := by
  simp only [State.IsDirectory, State.pdbr, h.npid, h.proc]

theorem State.Kept.owns_control (h : s.Kept t) (p f : Nat) :
    t.Owns (.control p) f ↔ s.Owns (.control p) f := by
  simp only [State.Owns, State.pcb, h.npid, h.proc]

theorem State.Kept.owns_root (h : s.Kept t) (p f : Nat) :
    t.Owns (.root p) f ↔ s.Owns (.root p) f := by
  simp only [State.Owns, State.pdbr, h.npid, h.proc]

/-- The Middle-Directories depend on the Directory entries alone. -/
theorem isMiddle_congr (hn : t.nframes = s.nframes)
    (h : ∀ a g, (t.entryFrame a = some g ∧ t.IsDirectory (frameOf a)) ↔
      (s.entryFrame a = some g ∧ s.IsDirectory (frameOf a))) (f : Nat) :
    t.IsMiddle f ↔ s.IsMiddle f := by
  simp only [State.IsMiddle, hn, h]

/-- The Tables depend on the Middle-Directory entries alone. -/
theorem isTable_congr (hn : t.nframes = s.nframes)
    (h : ∀ a g, (t.entryFrame a = some g ∧ t.IsMiddle (frameOf a)) ↔
      (s.entryFrame a = some g ∧ s.IsMiddle (frameOf a))) (f : Nat) :
    t.IsTable f ↔ s.IsTable f := by
  simp only [State.IsTable, hn, h]

/-- The registers and the table frames are the same. -/
structure State.SameTables (s t : State) : Prop where
  directory : ∀ f, t.IsDirectory f ↔ s.IsDirectory f
  middle : ∀ f, t.IsMiddle f ↔ s.IsMiddle f
  table : ∀ f, t.IsTable f ↔ s.IsTable f

theorem State.SameTables.upper_iff (h : s.SameTables t) (a : Nat) :
    t.IsUpperEntry a ↔ s.IsUpperEntry a :=
  or_congr (h.directory _) (h.middle _)

theorem State.SameTables.leaf_iff (h : s.SameTables t) (a : Nat) :
    t.IsLeafEntry a ↔ s.IsLeafEntry a := h.table _

theorem State.SameTables.trans {u : State} (h : s.SameTables t) (k : t.SameTables u) :
    s.SameTables u :=
  ⟨fun f => (k.directory f).trans (h.directory f), fun f => (k.middle f).trans (h.middle f),
    fun f => (k.table f).trans (h.table f)⟩

/-- What leaves the registers and the upper entries alone leaves the kinds of frames. -/
theorem State.Kept.sameTables (h : s.Kept t)
    (hu : ∀ a, s.IsUpperEntry a → t.entryFrame a = s.entryFrame a) : s.SameTables t := by
  have hm : ∀ f, t.IsMiddle f ↔ s.IsMiddle f := isMiddle_congr h.nframes fun a g => by
    rw [h.isDirectory_iff]
    exact and_congr_left fun hd => by rw [hu a (.inl hd)]
  refine ⟨h.isDirectory_iff, hm, isTable_congr h.nframes fun a g => ?_⟩
  rw [hm]
  exact and_congr_left fun hd => by rw [hu a (.inr hd)]

end Kinds

/-! ### The invariants with frames held -/

/-- A leaf entry that maps a frame. -/
def State.MapsLeaf (s : State) (a f : Nat) : Prop := s.IsLeafEntry a ∧ s.entryFrame a = some f

/-- A leaf entry that names a slot. -/
def State.SwapsLeaf (s : State) (a i : Nat) : Prop := s.IsLeafEntry a ∧ s.entrySlot a = some i

/-- R34, I-1 and I-2 while frames are held: an allocated frame is held or has one owner. -/
structure State.FramesAccounted (s : State) (held : List Nat) : Prop where
  held_nodup : held.Nodup
  used_iff : ∀ f, s.frameUsed f = true ↔ f ∈ held ∨ ∃ o, s.Owns o f
  held_unowned : ∀ f ∈ held, ∀ o, ¬ s.Owns o f
  owner_unique : ∀ f o o', s.Owns o f → s.Owns o' f → o = o'

/-- I-3 and I-1 for slots: a slot is used exactly when a leaf names it, and one leaf does. -/
structure State.SlotsAccounted (s : State) : Prop where
  used_iff : ∀ i, s.slotUsed i = true ↔ ∃ a, s.SwapsLeaf a i
  unique : ∀ a b i, s.SwapsLeaf a i → s.SwapsLeaf b i → a = b

/-- I-4: EQ holds the Mapped leaf entries, each once. -/
structure State.QueueAccounted (s : State) : Prop where
  nodup : s.queue.Nodup
  exact_iff : ∀ a, (∃ r, r ∈ s.queue ∧ r.toNat = a) ↔ ∃ f, s.MapsLeaf a f

/-- The invariants of R35 while a command holds frames that have no owner yet. -/
structure State.Accounted (s : State) (held : List Nat) : Prop where
  frames : s.FramesAccounted held
  slots : s.SlotsAccounted
  queue : s.QueueAccounted
  upper : ∀ a, s.IsUpperEntry a → s.entrySlot a = none

/-- Between commands no frame is held, and the invariants are those of R35. -/
theorem accounted_nil_iff {s : State} : s.Accounted [] ↔ s.Ownership := by
  constructor
  · rintro ⟨hf, hs, hq, hu⟩
    exact {
      allocated_owned := fun f h => by simpa using (hf.used_iff f).1 h
      owned_allocated := fun o f h => (hf.used_iff f).2 (.inr ⟨o, h⟩)
      owner_unique := hf.owner_unique
      swapped_used := fun a i hl hi => (hs.used_iff i).2 ⟨a, hl, hi⟩
      used_swapped := fun i h => (hs.used_iff i).1 h
      slot_unique := fun a b i ha hb hai hbi => hs.unique a b i ⟨ha, hai⟩ ⟨hb, hbi⟩
      queue_nodup := hq.nodup
      queue_exact := fun a => (hq.exact_iff a).trans exists_and_left
      upper_not_swapped := hu }
  · intro h
    refine ⟨⟨List.nodup_nil, fun f => ?_, by simp, h.owner_unique⟩, ⟨fun i => ?_, ?_⟩,
      ⟨h.queue_nodup, fun a => (h.queue_exact a).trans exists_and_left.symm⟩, h.upper_not_swapped⟩
    · exact ⟨fun hu => .inr (h.allocated_owned f hu), by
        rintro (hx | ⟨o, ho⟩)
        · cases hx
        · exact h.owned_allocated o f ho⟩
    · exact ⟨h.used_swapped i, fun ⟨a, hl, hi⟩ => h.swapped_used a i hl hi⟩
    · exact fun a b i ha hb => h.slot_unique a b i ha.1 hb.1 ha.2 hb.2

section Frames

variable {s t : State} {held : List Nat}

/-- An owner has one frame. -/
theorem State.Owns.frame_unique {o : Owner} {f g : Nat} (h : s.Owns o f) (k : s.Owns o g) :
    f = g := by
  cases o with
  | control p => exact h.2.1.symm.trans k.2.1
  | root p => exact h.2.1.symm.trans k.2.1
  | entry a => exact Option.some.inj (h.2.symm.trans k.2)

theorem State.IsDirectory.owned {f : Nat} (h : s.IsDirectory f) : ∃ p, s.Owns (.root p) f := by
  obtain ⟨h0, p, hp, hf⟩ := h
  exact ⟨p, hp, hf, h0⟩

theorem State.IsMiddle.owned {f : Nat} (h : s.IsMiddle f) :
    ∃ a, s.Owns (.entry a) f ∧ s.IsDirectory (frameOf a) := by
  obtain ⟨a, -, hf, hd⟩ := h
  exact ⟨a, ⟨.inl (.inl hd), hf⟩, hd⟩

theorem State.IsTable.owned {f : Nat} (h : s.IsTable f) :
    ∃ a, s.Owns (.entry a) f ∧ s.IsMiddle (frameOf a) := by
  obtain ⟨a, -, hf, hm⟩ := h
  exact ⟨a, ⟨.inl (.inr hm), hf⟩, hm⟩

theorem State.MapsLeaf.owned {a f : Nat} (h : s.MapsLeaf a f) : s.Owns (.entry a) f :=
  ⟨.inr h.1, h.2⟩

namespace State.FramesAccounted

theorem owned_used (h : s.FramesAccounted held) {o : Owner} {f : Nat} (ho : s.Owns o f) :
    s.frameUsed f = true := (h.used_iff f).2 (.inr ⟨o, ho⟩)

theorem held_used (h : s.FramesAccounted held) {f : Nat} (hf : f ∈ held) :
    s.frameUsed f = true := (h.used_iff f).2 (.inl hf)

theorem middle_not_directory (h : s.FramesAccounted held) {f : Nat} (hm : s.IsMiddle f) :
    ¬ s.IsDirectory f := by
  intro hd
  obtain ⟨a, ha, -⟩ := hm.owned
  obtain ⟨p, hp⟩ := hd.owned
  cases h.owner_unique f _ _ ha hp

theorem table_not_directory (h : s.FramesAccounted held) {f : Nat} (ht : s.IsTable f) :
    ¬ s.IsDirectory f := by
  intro hd
  obtain ⟨a, ha, -⟩ := ht.owned
  obtain ⟨p, hp⟩ := hd.owned
  cases h.owner_unique f _ _ ha hp

theorem table_not_middle (h : s.FramesAccounted held) {f : Nat} (ht : s.IsTable f) :
    ¬ s.IsMiddle f := by
  intro hm
  obtain ⟨a, ha, ham⟩ := ht.owned
  obtain ⟨b, hb, hbd⟩ := hm.owned
  cases h.owner_unique f _ _ ha hb
  exact h.middle_not_directory ham hbd

/-- No address is that of a leaf entry and of an upper entry. -/
theorem leaf_not_upper (h : s.FramesAccounted held) {a : Nat} (hl : s.IsLeafEntry a) :
    ¬ s.IsUpperEntry a := by
  rintro (hd | hm)
  · exact h.table_not_directory hl hd
  · exact h.table_not_middle hl hm

/-- Every frame that holds entries is allocated (R34). -/
theorem entries_used (h : s.FramesAccounted held) {a : Nat}
    (ha : s.IsUpperEntry a ∨ s.IsLeafEntry a) : s.frameUsed (frameOf a) = true := by
  rcases ha with (hd | hm) | ht
  · obtain ⟨p, hp⟩ := hd.owned; exact h.owned_used hp
  · obtain ⟨b, hb, -⟩ := hm.owned; exact h.owned_used hb
  · obtain ⟨b, hb, -⟩ := ht.owned; exact h.owned_used hb

/-- A held frame holds no entry. -/
theorem held_no_entries (h : s.FramesAccounted held) {a : Nat} (hf : frameOf a ∈ held) :
    ¬ (s.IsUpperEntry a ∨ s.IsLeafEntry a) := by
  rintro ((hd | hm) | ht)
  · obtain ⟨p, hp⟩ := hd.owned; exact h.held_unowned _ hf _ hp
  · obtain ⟨b, hb, -⟩ := hm.owned; exact h.held_unowned _ hf _ hb
  · obtain ⟨b, hb, -⟩ := ht.owned; exact h.held_unowned _ hf _ hb

/-- Every entry lies in the arena. -/
theorem entry_inside (h : s.FramesAccounted held) (hs : s.WellShaped) {a : Nat}
    (ha : s.IsUpperEntry a ∨ s.IsLeafEntry a) : a < Config.frameBytes * s.nframes := by
  obtain ⟨-, hlt⟩ := hs.frameUsed_inside (h.entries_used ha)
  simp only [frameOf, Config.frameBytes] at *
  omega

/-- Held frames are handed to new owners. -/
theorem handOver {given : List (Owner × Nat)}
    (h : s.FramesAccounted (given.map Prod.snd ++ held))
    (hu : ∀ f, t.frameUsed f = s.frameUsed f)
    (ho : ∀ o f, t.Owns o f ↔ s.Owns o f ∨ (o, f) ∈ given) : t.FramesAccounted held := by
  have hnew : ∀ {o f}, (o, f) ∈ given → f ∈ given.map Prod.snd ++ held := fun hm =>
    List.mem_append_left _ (List.mem_map_of_mem hm)
  obtain ⟨hgn, hhn, hdis⟩ := List.nodup_append.1 h.held_nodup
  refine ⟨hhn, fun f => ?_, fun f hf o hof => ?_, fun f o o' hof hof' => ?_⟩
  · rw [hu, h.used_iff, List.mem_append]
    simp only [ho, exists_or, List.mem_map, Prod.exists, exists_eq_right]
    tauto
  · rcases (ho o f).1 hof with hs | hg
    · exact h.held_unowned f (List.mem_append_right _ hf) o hs
    · exact hdis f (List.mem_map_of_mem hg) f hf rfl
  · rcases (ho o f).1 hof with hs | hg <;> rcases (ho o' f).1 hof' with hs' | hg'
    · exact h.owner_unique f o o' hs hs'
    · exact absurd hs (h.held_unowned f (hnew hg') o)
    · exact absurd hs' (h.held_unowned f (hnew hg) o')
    · exact pair_unique hgn hg hg'

/-- One owner loses its frame, which becomes free. -/
theorem lose {o₀ : Owner} {v : Nat} (h : s.FramesAccounted held) (hv : s.Owns o₀ v)
    (hu : ∀ f, t.frameUsed f = true ↔ s.frameUsed f = true ∧ f ≠ v)
    (ho : ∀ o f, t.Owns o f ↔ s.Owns o f ∧ o ≠ o₀) : t.FramesAccounted held := by
  refine ⟨h.held_nodup, fun f => ?_, fun f hf o hof => h.held_unowned f hf o ((ho o f).1 hof).1,
    fun f o o' hof hof' => h.owner_unique f o o' ((ho o f).1 hof).1 ((ho o' f).1 hof').1⟩
  rw [hu, h.used_iff]
  constructor
  · rintro ⟨hf | ⟨o, hof⟩, hne⟩
    · exact .inl hf
    · refine .inr ⟨o, (ho o f).2 ⟨hof, ?_⟩⟩
      rintro rfl
      exact hne (hof.frame_unique hv)
  · rintro (hf | ⟨o, hof⟩)
    · refine ⟨.inl hf, ?_⟩
      rintro rfl
      exact h.held_unowned f hf o₀ hv
    · obtain ⟨hof, hne⟩ := (ho o f).1 hof
      refine ⟨.inr ⟨o, hof⟩, ?_⟩
      rintro rfl
      exact hne (h.owner_unique f o o₀ hof hv)

/-- A free frame is taken. -/
theorem take {g : Nat} (h : s.FramesAccounted held) (hg : s.frameUsed g = false)
    (hu : ∀ f, t.frameUsed f = true ↔ f = g ∨ s.frameUsed f = true)
    (ho : ∀ o f, t.Owns o f ↔ s.Owns o f) : t.FramesAccounted (g :: held) := by
  have hfree : ∀ o, ¬ s.Owns o g := fun o hog => by
    rw [h.owned_used hog] at hg; cases hg
  have hout : g ∉ held := fun hm => by rw [h.held_used hm] at hg; cases hg
  refine ⟨List.nodup_cons.2 ⟨hout, h.held_nodup⟩, fun f => ?_, fun f hf o => ?_,
    fun f o o' => ?_⟩
  · rw [hu, h.used_iff, List.mem_cons, or_assoc]; simp only [ho]
  · rw [ho]
    rcases List.mem_cons.1 hf with rfl | hf
    · exact hfree o
    · exact h.held_unowned f hf o
  · rw [ho, ho]; exact h.owner_unique f o o'

/-- A held frame is released. -/
theorem release {g : Nat} (h : s.FramesAccounted (g :: held))
    (hu : ∀ f, t.frameUsed f = true ↔ s.frameUsed f = true ∧ f ≠ g)
    (ho : ∀ o f, t.Owns o f ↔ s.Owns o f) : t.FramesAccounted held := by
  obtain ⟨hout, hn⟩ := List.nodup_cons.1 h.held_nodup
  have hfree := h.held_unowned g List.mem_cons_self
  refine ⟨hn, fun f => ?_, fun f hf o => ?_, fun f o o' => ?_⟩
  · rw [hu, h.used_iff, List.mem_cons]
    simp only [ho]
    constructor
    · rintro ⟨(hf | hf) | hf, hne⟩
      · exact absurd hf hne
      · exact .inl hf
      · exact .inr hf
    · rintro (hf | ⟨o, hof⟩)
      · exact ⟨.inl (.inr hf), fun e => hout (e ▸ hf)⟩
      · exact ⟨.inr ⟨o, hof⟩, fun e => hfree o (e ▸ hof)⟩
  · rw [ho]; exact h.held_unowned f (List.mem_cons_of_mem _ hf) o
  · rw [ho, ho]; exact h.owner_unique f o o'

end State.FramesAccounted

end Frames

/-! ### Moves of slots and of EQ -/

section Moves

variable {s t : State}

/-- A reference in EQ is that of a leaf entry (I-4). -/
theorem State.QueueAccounted.leaf (h : s.QueueAccounted) {r : Byte} (hr : r ∈ s.queue) :
    s.IsLeafEntry r.toNat := by
  obtain ⟨f, hl, -⟩ := (h.exact_iff r.toNat).1 ⟨r, hr, rfl⟩
  exact hl

/-- A leaf that named no slot gets a free one. -/
theorem State.SlotsAccounted.assign {x slot : Nat} (h : s.SlotsAccounted)
    (hfree : s.slotUsed slot = false) (hx : ∀ i, ¬ s.SwapsLeaf x i)
    (hu : ∀ i, t.slotUsed i = true ↔ i = slot ∨ s.slotUsed i = true)
    (hl : ∀ a i, t.SwapsLeaf a i ↔ if a = x then slot = i else s.SwapsLeaf a i) :
    t.SlotsAccounted := by
  have hnone : ∀ a, ¬ s.SwapsLeaf a slot := fun a ha => by
    rw [(h.used_iff slot).2 ⟨a, ha⟩] at hfree; cases hfree
  refine ⟨fun i => ?_, fun a b i ha hb => ?_⟩
  · rw [hu, h.used_iff]
    simp only [hl]
    constructor
    · rintro (rfl | ⟨a, ha⟩)
      · exact ⟨x, by rw [if_pos rfl]⟩
      · refine ⟨a, ?_⟩
        rw [if_neg]
        · exact ha
        · rintro rfl; exact hx i ha
    · rintro ⟨a, ha⟩
      split at ha
      · exact .inl ha.symm
      · exact .inr ⟨a, ha⟩
  · rw [hl] at ha hb
    split at ha <;> split at hb
    · next ea eb => rw [ea, eb]
    · rw [← ha] at hb; exact absurd hb (hnone b)
    · rw [← hb] at ha; exact absurd ha (hnone a)
    · exact h.unique a b i ha hb

/-- A leaf names no slot any more, and the slot it named is free. -/
theorem State.SlotsAccounted.clear {x : Nat} (h : s.SlotsAccounted)
    (hu : ∀ i, t.slotUsed i = true ↔ s.slotUsed i = true ∧ ¬ s.SwapsLeaf x i)
    (hl : ∀ a i, t.SwapsLeaf a i ↔ s.SwapsLeaf a i ∧ a ≠ x) : t.SlotsAccounted := by
  refine ⟨fun i => ?_, fun a b i ha hb => h.unique a b i ((hl a i).1 ha).1 ((hl b i).1 hb).1⟩
  rw [hu, h.used_iff]
  simp only [hl]
  constructor
  · rintro ⟨⟨a, ha⟩, hne⟩
    exact ⟨a, ha, by rintro rfl; exact hne ha⟩
  · rintro ⟨a, ha, hne⟩
    exact ⟨⟨a, ha⟩, fun hx => hne (h.unique a x i ha hx)⟩

/-- The front of EQ leaves, and its leaf is not Mapped any more. -/
theorem State.QueueAccounted.pop {r : Byte} {q : List Byte} (h : s.QueueAccounted)
    (hq : s.queue = r :: q) (ht : t.queue = q)
    (hl : ∀ a f, t.MapsLeaf a f ↔ s.MapsLeaf a f ∧ a ≠ r.toNat) : t.QueueAccounted := by
  have hn := h.nodup
  rw [hq] at hn
  obtain ⟨hout, hn'⟩ := List.nodup_cons.1 hn
  refine ⟨ht ▸ hn', fun a => ?_⟩
  simp only [hl, exists_and_right, ← h.exact_iff, hq, ht]
  constructor
  · rintro ⟨r', hm, rfl⟩
    exact ⟨⟨r', List.mem_cons_of_mem _ hm, rfl⟩, fun e => hout (BitVec.eq_of_toNat_eq e ▸ hm)⟩
  · rintro ⟨⟨r', hm, rfl⟩, hne⟩
    rcases List.mem_cons.1 hm with rfl | hm
    · exact absurd rfl hne
    · exact ⟨r', hm, rfl⟩

/-- A leaf that was not Mapped is mapped and joins EQ at the back. -/
theorem State.QueueAccounted.push {r : Byte} {g : Nat} (h : s.QueueAccounted)
    (ht : t.queue = s.queue ++ [r]) (hr : ∀ f, ¬ s.MapsLeaf r.toNat f)
    (hl : ∀ a f, t.MapsLeaf a f ↔ if a = r.toNat then g = f else s.MapsLeaf a f) :
    t.QueueAccounted := by
  refine ⟨?_, fun a => ?_⟩
  · rw [ht, List.nodup_append]
    refine ⟨h.nodup, List.nodup_singleton _, fun r₁ h₁ r₂ h₂ e => ?_⟩
    obtain ⟨f, hf⟩ := (h.exact_iff r.toNat).1 ⟨r₁, h₁, by rw [e, List.mem_singleton.1 h₂]⟩
    exact hr f hf
  · simp only [ht, hl, List.mem_append, List.mem_singleton]
    split
    · next e => exact iff_of_true ⟨r, .inr rfl, e.symm⟩ ⟨g, rfl⟩
    · next e =>
      rw [← h.exact_iff]
      refine exists_congr fun r' => ⟨?_, fun ⟨hm, he⟩ => ⟨.inl hm, he⟩⟩
      rintro ⟨hm | rfl, he⟩
      · exact ⟨hm, he⟩
      · exact absurd he.symm e

end Moves

/-! ### Updates that change no entry -/

section SameEntries

variable {s t : State} {held : List Nat}

theorem State.SlotsAccounted.congr (h : s.SlotsAccounted)
    (hu : ∀ i, t.slotUsed i = s.slotUsed i) (hl : ∀ a i, t.SwapsLeaf a i ↔ s.SwapsLeaf a i) :
    t.SlotsAccounted :=
  ⟨fun i => by simp only [hu, hl, h.used_iff], fun a b i => by
    rw [hl, hl]; exact h.unique a b i⟩

theorem State.QueueAccounted.congr (h : s.QueueAccounted) (hq : t.queue = s.queue)
    (hl : ∀ a f, t.MapsLeaf a f ↔ s.MapsLeaf a f) : t.QueueAccounted :=
  ⟨hq ▸ h.nodup, fun a => by rw [hq, h.exact_iff]; simp only [hl]⟩

/-- The registers and every entry are the same; bytes that are no entries may differ. -/
structure State.SameEntries (s t : State) : Prop extends s.Kept t where
  entries : ∀ a, s.IsUpperEntry a ∨ s.IsLeafEntry a → t.phys.read a = s.phys.read a

theorem State.Kept.sameEntries (h : s.Kept t) (hp : t.phys = s.phys) : s.SameEntries t :=
  ⟨h, fun _ _ => by rw [hp]⟩

namespace State.SameEntries

theorem tables (h : s.SameEntries t) : s.SameTables t :=
  h.toKept.sameTables fun a ha => entryFrame_congr (h.entries a (.inl ha))

theorem entry_iff (h : s.SameEntries t) (a : Nat) :
    (t.IsUpperEntry a ∨ t.IsLeafEntry a) ↔ (s.IsUpperEntry a ∨ s.IsLeafEntry a) :=
  or_congr (h.tables.upper_iff a) (h.tables.leaf_iff a)

theorem owns_iff (h : s.SameEntries t) (o : Owner) (f : Nat) : t.Owns o f ↔ s.Owns o f := by
  cases o with
  | control p => exact h.owns_control p f
  | root p => exact h.owns_root p f
  | entry a =>
    simp only [State.Owns, h.entry_iff]
    exact and_congr_right fun ha => by rw [entryFrame_congr (h.entries a ha)]

theorem mapsLeaf_iff (h : s.SameEntries t) (a f : Nat) : t.MapsLeaf a f ↔ s.MapsLeaf a f := by
  simp only [State.MapsLeaf, h.tables.leaf_iff]
  exact and_congr_right fun ha => by rw [entryFrame_congr (h.entries a (.inr ha))]

theorem swapsLeaf_iff (h : s.SameEntries t) (a i : Nat) : t.SwapsLeaf a i ↔ s.SwapsLeaf a i := by
  simp only [State.SwapsLeaf, h.tables.leaf_iff]
  exact and_congr_right fun ha => by rw [entrySlot_congr (h.entries a (.inr ha))]

/-- The invariants depend on the entries, the bitmaps, EQ and the registers; the frames are accounted
for apart. -/
theorem accounted {held' : List Nat} (h : s.SameEntries t) (hs : s.Accounted held)
    (hf : t.FramesAccounted held') (hu : t.sused = s.sused) (hq : t.queue = s.queue) :
    t.Accounted held' where
  frames := hf
  slots := hs.slots.congr (fun i => by rw [State.slotUsed, State.slotUsed, hu]) h.swapsLeaf_iff
  queue := hs.queue.congr hq h.mapsLeaf_iff
  upper := fun a ha => by
    have ha' := (h.tables.upper_iff a).1 ha
    rw [entrySlot_congr (h.entries a (.inl ha'))]
    exact hs.upper a ha'

theorem frames (h : s.SameEntries t) (hs : s.FramesAccounted held) (hf : t.fused = s.fused) :
    t.FramesAccounted held := by
  have hu : ∀ f, t.frameUsed f = s.frameUsed f := fun f => by
    rw [State.frameUsed, State.frameUsed, hf]
  exact ⟨hs.held_nodup, fun f => by simp only [hu, h.owns_iff, hs.used_iff],
    fun f hm o => by rw [h.owns_iff]; exact hs.held_unowned f hm o,
    fun f o o' => by rw [h.owns_iff, h.owns_iff]; exact hs.owner_unique f o o'⟩

/-- An update of bytes that are no entries, of the draws, or of the interface. -/
theorem accounted_of_eq (h : s.SameEntries t) (hs : s.Accounted held) (hf : t.fused = s.fused)
    (hu : t.sused = s.sused) (hq : t.queue = s.queue) : t.Accounted held :=
  h.accounted hs (h.frames hs.frames hf) hu hq

end State.SameEntries

theorem State.Accounted.respond (h : s.Accounted held) (hs : s.WellShaped) (st : Status)
    (info : BitVec 4) (b : Byte) : (s.respond st info b).Accounted held := by
  have he : s.SameEntries (s.respond st info b) :=
    State.Kept.sameEntries ⟨hs.respond st info b, ⟨rfl, rfl, rfl, rfl, rfl, rfl⟩, rfl⟩ rfl
  exact he.accounted_of_eq h rfl rfl rfl

/-- Writing a byte that is no entry, as PWR within the host's duty does (R314). -/
theorem State.Accounted.putPhys (h : s.Accounted held) (hs : s.WellShaped) {a : Nat} (v : Byte)
    (ha : ¬ (s.IsUpperEntry a ∨ s.IsLeafEntry a)) : (s.putPhys a v).Accounted held := by
  have he : s.SameEntries (s.putPhys a v) := ⟨(State.Kept.refl hs).putPhys a v, fun b hb => by
    have hne : b ≠ a := by rintro rfl; exact ha hb
    rw [State.putPhys_phys, Memory.read_write_other _ hne]⟩
  exact he.accounted_of_eq h rfl rfl rfl

/-- Filling a held frame changes no entry. -/
theorem State.Accounted.sameEntries_putBytes (h : s.Accounted held) (hs : s.WellShaped) {g : Nat}
    (hg : g ∈ held) {bs : List Byte} (hb : bs.length = 4) :
    s.SameEntries (s.putBytes (frameBase g) bs) := by
  obtain ⟨-, hgn⟩ := hs.frameUsed_inside (h.frames.held_used hg)
  refine ⟨⟨hs.putBytes _ _, ⟨rfl, rfl, rfl, rfl, rfl, rfl⟩, rfl⟩, fun a ha => ?_⟩
  rw [hs.read_putBytes_frame hgn hb, if_neg]
  rintro rfl
  exact h.frames.held_no_entries hg ha

theorem State.Accounted.putBytes (h : s.Accounted held) (hs : s.WellShaped) {g : Nat}
    (hg : g ∈ held) {bs : List Byte} (hb : bs.length = 4) :
    (s.putBytes (frameBase g) bs).Accounted held :=
  have he := h.sameEntries_putBytes hs hg hb
  he.accounted_of_eq h rfl rfl rfl

theorem State.Accounted.afterDraws (h : s.Accounted held) (hs : s.WellShaped) :
    s.afterDraws.Accounted held := by
  have he : s.SameEntries s.afterDraws :=
    State.Kept.sameEntries ⟨hs.afterDraws, ⟨rfl, rfl, rfl, rfl, rfl, rfl⟩, rfl⟩ rfl
  exact he.accounted_of_eq h rfl rfl rfl

theorem State.WellShaped.sameEntries_putFrame (hs : s.WellShaped) (g : Nat) (u : Bool) :
    s.SameEntries (s.putFrame g u) :=
  State.Kept.sameEntries ⟨hs.putFrame g u, ⟨rfl, rfl, rfl, rfl, rfl, rfl⟩, rfl⟩ rfl

/-- FALLOC takes a frame that the command then holds (R121). -/
theorem State.Accounted.of_falloc (h : s.Accounted held) (hs : s.WellShaped) {g : Nat}
    (ha : falloc s = some (g, t)) : t.Accounted (g :: held) := by
  obtain ⟨h1, hn, hfree, -, rfl⟩ := falloc_some ha
  have he := hs.sameEntries_putFrame g true
  refine he.accounted h (h.frames.take (by simp [State.frameUsed, hfree]) (fun f => ?_)
    he.owns_iff) rfl rfl
  rw [hs.frameUsed_putFrame h1 hn]
  by_cases hf : f = g <;> simp [hf]

/-- FRELEASE of a held frame (R123). -/
theorem State.Accounted.putFrame_false (hs : s.WellShaped) {g : Nat}
    (h : s.Accounted (g :: held)) : (s.putFrame g false).Accounted held := by
  obtain ⟨h1, hn⟩ := hs.frameUsed_inside (h.frames.held_used List.mem_cons_self)
  have he := hs.sameEntries_putFrame g false
  refine he.accounted h (h.frames.release (fun f => ?_) he.owns_iff) rfl rfl
  rw [hs.frameUsed_putFrame h1 hn]
  by_cases hf : f = g <;> simp [hf]

end SameEntries

/-! ### Rewriting a leaf entry -/

section LeafWrite

variable {s t : State} {held : List Nat} {x : Nat} {b : Byte}

theorem State.FramesAccounted.leaf_exists (h : s.FramesAccounted held) (hs : s.WellShaped)
    (hx : s.IsLeafEntry x) : (s.phys.read x).isSome = true :=
  (hs.phys_exists x).2 (h.entry_inside hs (.inr hx))

/-- A leaf entry is no upper entry, so rewriting it changes no table. -/
theorem State.FramesAccounted.sameTables_leaf (h : s.FramesAccounted held) (hs : s.WellShaped)
    (hx : s.IsLeafEntry x) (hk : s.Kept t) (hw : t.phys = s.phys.write x b) : s.SameTables t :=
  hk.sameTables fun a ha => by
    rw [entryFrame_write (h.leaf_exists hs hx) hw, if_neg]
    rintro rfl
    exact h.leaf_not_upper hx ha

/-- What a rewritten leaf entry maps, and what all others map. -/
theorem State.FramesAccounted.mapsLeaf_write (h : s.FramesAccounted held) (hs : s.WellShaped)
    (hx : s.IsLeafEntry x) (hk : s.Kept t) (hw : t.phys = s.phys.write x b) (a f : Nat) :
    t.MapsLeaf a f ↔ if a = x then (classify b).frame = some f else s.MapsLeaf a f := by
  simp only [State.MapsLeaf, (h.sameTables_leaf hs hx hk hw).leaf_iff,
    entryFrame_write (h.leaf_exists hs hx) hw]
  split
  · next e => rw [e]; exact and_iff_right hx
  · rfl

theorem State.FramesAccounted.swapsLeaf_write (h : s.FramesAccounted held) (hs : s.WellShaped)
    (hx : s.IsLeafEntry x) (hk : s.Kept t) (hw : t.phys = s.phys.write x b) (a i : Nat) :
    t.SwapsLeaf a i ↔ if a = x then (classify b).slot = some i else s.SwapsLeaf a i := by
  simp only [State.SwapsLeaf, (h.sameTables_leaf hs hx hk hw).leaf_iff,
    entrySlot_write (h.leaf_exists hs hx) hw]
  split
  · next e => rw [e]; exact and_iff_right hx
  · rfl

theorem State.FramesAccounted.owns_entry_write (h : s.FramesAccounted held) (hs : s.WellShaped)
    (hx : s.IsLeafEntry x) (hk : s.Kept t) (hw : t.phys = s.phys.write x b) (a f : Nat) :
    t.Owns (.entry a) f ↔ if a = x then (classify b).frame = some f else s.Owns (.entry a) f := by
  have ht := h.sameTables_leaf hs hx hk hw
  simp only [State.Owns, ht.upper_iff, ht.leaf_iff, entryFrame_write (h.leaf_exists hs hx) hw]
  split
  · next e => rw [e]; exact and_iff_right (.inr hx)
  · rfl

/-- Rewriting a leaf entry leaves the upper entries as they are. -/
theorem State.FramesAccounted.upper_write (h : s.FramesAccounted held) (hs : s.WellShaped)
    (hx : s.IsLeafEntry x) (hk : s.Kept t) (hw : t.phys = s.phys.write x b)
    (hu : ∀ a, s.IsUpperEntry a → s.entrySlot a = none) (a : Nat) (ha : t.IsUpperEntry a) :
    t.entrySlot a = none := by
  have ha' := ((h.sameTables_leaf hs hx hk hw).upper_iff a).1 ha
  rw [entrySlot_write (h.leaf_exists hs hx) hw, if_neg]
  · exact hu a ha'
  · rintro rfl
    exact h.leaf_not_upper hx ha'

end LeafWrite

/-! ### Eviction and allocation -/

section Allocation

variable {s t : State} {held : List Nat}

/-- A Mapped entry is not Swapped (R170). -/
theorem entrySlot_of_entryFrame {a f : Nat} (h : s.entryFrame a = some f) :
    s.entrySlot a = none := by
  cases hr : s.phys.read a with
  | none => rw [State.entrySlot_eq, hr]; rfl
  | some b =>
    rw [entryFrame_of_read hr] at h
    rw [entrySlot_of_read hr]
    cases hc : classify b with
    | mapped f => rfl
    | unmapped => rfl
    | swapped i => rw [hc] at h; cases h

/-- The victim of an eviction loses its frame and names the slot instead (R193). -/
theorem State.Accounted.evicted (h : s.Accounted held) (hs : s.WellShaped) {r : Byte}
    {q : List Byte} {slot v : Nat} (hq : s.queue = r :: q) (hk : speek s = some slot)
    (hr : s.entryFrame r.toNat = some v) : (s.evicted r slot v).Accounted held := by
  obtain ⟨hi, hin, hfree, -⟩ := speek_some hk
  have hslot : slot < 128 := lt_of_lt_of_le hin hs.nslots_le
  have hleaf := h.queue.leaf (r := r) (by simp [hq])
  have hown : s.Owns (.entry r.toNat) v := ⟨.inr hleaf, hr⟩
  obtain ⟨hv, hvn⟩ := hs.frameUsed_inside (h.frames.owned_used hown)
  have hkept := hs.evicted r slot v
  have hw : (s.evicted r slot v).phys = s.phys.write r.toNat (encSwapped slot) := rfl
  refine ⟨h.frames.lose hown (fun f => ?_) fun o f => ?_,
    h.slots.assign (x := r.toNat) (slot := slot) (by simp [State.slotUsed, hfree]) ?_ (fun i => ?_)
      fun a i => ?_,
    h.queue.pop hq (congrArg List.tail hq) fun a f => ?_,
    h.frames.upper_write hs hleaf hkept hw h.upper⟩
  · change (s.putFrame v false).frameUsed f = true ↔ _
    rw [hs.frameUsed_putFrame hv hvn]
    by_cases hf : f = v <;> simp [hf]
  · cases o with
    | control p => simp [hkept.owns_control]
    | root p => simp [hkept.owns_root]
    | entry a =>
      rw [h.frames.owns_entry_write hs hleaf hkept hw, frame_encSwapped hslot]
      by_cases ha : a = r.toNat <;> simp [ha]
  · rintro i ⟨-, hsw⟩
    rw [entrySlot_of_entryFrame hr] at hsw; cases hsw
  · change (s.putSlot slot true).slotUsed i = true ↔ _
    rw [hs.slotUsed_putSlot hi hin]
    by_cases he : i = slot <;> simp [he]
  · rw [h.frames.swapsLeaf_write hs hleaf hkept hw, slot_encSwapped hi hslot, Option.some.injEq]
  · rw [h.frames.mapsLeaf_write hs hleaf hkept hw, frame_encSwapped hslot]
    by_cases ha : a = r.toNat <;> simp [ha]

/-- ALLOC_EVICT, when it succeeds (R192): a free frame at once, or one after an eviction. -/
theorem allocEvict_ok_cases (hs : s.WellShaped) {g : Nat} (h : allocEvict s = .ok g t) :
    falloc s = some (g, t) ∨ ∃ r q slot v, s.queue = r :: q ∧ speek s = some slot ∧
      s.entryFrame r.toNat = some v ∧ falloc (s.evicted r slot v) = some (g, t) := by
  unfold allocEvict at h
  split at h
  · next hf => cases h; exact .inl hf
  · rcases evict_cases hs with ⟨-, he⟩ | ⟨-, -, he⟩ | ⟨r, q, slot, -, -, -, he⟩ |
      ⟨r, q, slot, v, hq, hk, hv, -, he⟩
    · rw [he] at h; cases h
    · rw [he] at h; cases h
    · rw [he] at h; cases h
    · rw [he, Result.bind_ok, retryAlloc] at h
      split at h
      · next hf => cases h; exact .inr ⟨r, q, slot, v, hq, hk, hv, hf⟩
      · cases h

/-- What an allocation leaves: the invariants with the frame held, the tables, and every byte that
is no Mapped leaf entry. -/
structure State.AllocatedFor (s : State) (held : List Nat) (g : Nat) (t : State) : Prop
    extends s.Allocated g t where
  accounted : t.Accounted (g :: held)
  tables : s.SameTables t
  read : ∀ a, (∀ f, ¬ s.MapsLeaf a f) → t.phys.read a = s.phys.read a

theorem State.Accounted.of_allocEvict (h : s.Accounted held) (hs : s.WellShaped) {g : Nat}
    (ha : allocEvict s = .ok g t) : s.AllocatedFor held g t := by
  have hal : s.Allocated g t := by
    rcases allocEvict_cases hs with ⟨g', t', hx, hal⟩ | ⟨e, hx⟩
    · rw [ha] at hx; cases hx; exact hal
    · rw [ha] at hx; cases hx
  rcases allocEvict_ok_cases hs ha with hf | ⟨r, q, slot, v, hq, hk, hr, hf⟩
  · obtain ⟨-, -, -, -, rfl⟩ := falloc_some hf
    exact ⟨hal, h.of_falloc hs hf, (hs.sameEntries_putFrame g true).tables, fun _ _ => rfl⟩
  · have hev := hs.evicted r slot v
    have hacc := h.evicted hs hq hk hr
    have hmap : s.MapsLeaf r.toNat v := ⟨h.queue.leaf (by simp [hq]), hr⟩
    obtain ⟨-, -, -, -, rfl⟩ := falloc_some hf
    refine ⟨hal, hacc.of_falloc hev.shaped hf,
      (h.frames.sameTables_leaf hs hmap.1 hev (b := encSwapped slot) rfl).trans
        (hev.shaped.sameEntries_putFrame g true).tables, fun a hna => ?_⟩
    have hne : a ≠ r.toNat := by rintro rfl; exact hna v hmap
    exact Memory.read_write_other _ hne _

/-- An upper entry stays as it was through an allocation. -/
theorem State.AllocatedFor.read_upper {g a : Nat} (h : s.AllocatedFor held g t)
    (hs : s.Accounted held) (ha : s.IsUpperEntry a) : t.phys.read a = s.phys.read a :=
  h.read a fun _ hm => hs.frames.leaf_not_upper hm.1 ha

/-- So does a leaf entry that is not Mapped. -/
theorem State.AllocatedFor.read_unmapped {g a : Nat} (h : s.AllocatedFor held g t)
    (ha : s.entryFrame a = none) : t.phys.read a = s.phys.read a :=
  h.read a fun f hm => by rw [hm.2] at ha; cases ha

end Allocation

/-! ### A held frame gets its owner -/

section HandOver

variable {s t : State} {held : List Nat} {g loc : Nat}

/-- A held frame is one of 1 .. 63, so it survives in an entry. -/
theorem State.Accounted.held_lt (h : s.Accounted (g :: held)) (hs : s.WellShaped) : g < 64 := by
  obtain ⟨-, hn⟩ := hs.frameUsed_inside (h.frames.held_used List.mem_cons_self)
  exact lt_of_lt_of_le hn hs.nframes_le

/-- A leaf entry that was not Mapped gets a held frame and joins EQ; the slot it named, if any, is
free again (R204, R210). -/
theorem State.Accounted.fillLeaf (h : s.Accounted (g :: held)) (hs : s.WellShaped)
    (hl : s.IsLeafEntry loc) (hn : s.entryFrame loc = none) (hk : s.Kept t)
    (hw : t.phys = s.phys.write loc (encMapped g)) (hf : t.fused = s.fused)
    (hu : ∀ i, t.slotUsed i = true ↔ s.slotUsed i = true ∧ s.entrySlot loc ≠ some i)
    (hq : t.queue = s.queue ++ [BitVec.ofNat 8 loc]) : t.Accounted held := by
  have hg := h.held_lt hs
  have hloc : (BitVec.ofNat 8 loc).toNat = loc := by
    have hin := h.frames.entry_inside hs (.inr hl)
    have h64 := hs.nframes_le
    simp only [Config.frameBytes, Config.maxFrames] at hin h64
    rw [BitVec.toNat_ofNat, Nat.mod_eq_of_lt (by omega)]
  refine ⟨State.FramesAccounted.handOver (given := [(.entry loc, g)]) h.frames
    (fun f => by rw [State.frameUsed, State.frameUsed, hf]) fun o f => ?_,
    h.slots.clear (x := loc) (fun i => ?_) fun a i => ?_,
    h.queue.push (g := g) hq ?_ fun a f => ?_, h.frames.upper_write hs hl hk hw h.upper⟩
  · cases o with
    | control p => simp [hk.owns_control]
    | root p => simp [hk.owns_root]
    | entry a =>
      rw [h.frames.owns_entry_write hs hl hk hw, frame_encMapped hg]
      by_cases ha : a = loc
      · simp [ha, State.Owns, hn, eq_comm]
      · simp [ha]
  · rw [hu, State.SwapsLeaf, and_iff_right hl]
  · rw [h.frames.swapsLeaf_write hs hl hk hw, slot_encMapped hg]
    by_cases ha : a = loc <;> simp [ha]
  · rintro f ⟨-, hm⟩
    rw [hloc, hn] at hm; cases hm
  · rw [hloc, h.frames.mapsLeaf_write hs hl hk hw, frame_encMapped hg, Option.some.injEq]

/-- The frames mapped by entries of some kind of frame, after an empty entry has been made to map the
held frame. -/
theorem exists_entry_linked {P : Nat → Prop} (hin : loc < Config.frameBytes * s.nframes)
    (hn : s.entryFrame loc = none)
    (he : ∀ a, t.entryFrame a = if a = loc then some g else s.entryFrame a) (f : Nat) :
    (∃ a, a < Config.frameBytes * s.nframes ∧ t.entryFrame a = some f ∧ P (frameOf a)) ↔
      (∃ a, a < Config.frameBytes * s.nframes ∧ s.entryFrame a = some f ∧ P (frameOf a)) ∨
      (P (frameOf loc) ∧ f = g) := by
  constructor
  · rintro ⟨a, ha, hf, hp⟩
    rw [he] at hf
    split at hf
    · next e => cases hf; exact .inr ⟨e ▸ hp, rfl⟩
    · exact .inl ⟨a, ha, hf, hp⟩
  · rintro (⟨a, ha, hf, hp⟩ | ⟨hp, rfl⟩)
    · refine ⟨a, ha, ?_, hp⟩
      rw [he, if_neg]
      · exact hf
      · rintro rfl; rw [hn] at hf; cases hf
    · exact ⟨loc, hin, by rw [he, if_pos rfl], hp⟩

section Link

variable (h : s.Accounted (g :: held)) (hs : s.WellShaped) (hup : s.IsUpperEntry loc)
  (hn : s.entryFrame loc = none) (hb : s.Blank g)
include h hs hup

theorem State.Accounted.entryFrame_link (a : Nat) :
    (s.putPhys loc (encMapped g)).entryFrame a = if a = loc then some g else s.entryFrame a := by
  have hin := h.frames.entry_inside hs (.inl hup)
  rw [entryFrame_write ((hs.phys_exists loc).2 hin) (State.putPhys_phys s loc _),
    frame_encMapped (h.held_lt hs)]

theorem State.Accounted.entrySlot_link (a : Nat) :
    (s.putPhys loc (encMapped g)).entrySlot a = if a = loc then none else s.entrySlot a := by
  have hin := h.frames.entry_inside hs (.inl hup)
  rw [entrySlot_write ((hs.phys_exists loc).2 hin) (State.putPhys_phys s loc _),
    slot_encMapped (h.held_lt hs)]

include hn

/-- A table linked in a Directory becomes a Middle-Directory (R203). -/
theorem State.Accounted.isMiddle_link (f : Nat) : (s.putPhys loc (encMapped g)).IsMiddle f ↔
    s.IsMiddle f ∨ (s.IsDirectory (frameOf loc) ∧ f = g) :=
  exists_entry_linked (P := s.IsDirectory) (h.frames.entry_inside hs (.inl hup)) hn
    (h.entryFrame_link hs hup) f

theorem State.Accounted.isUpper_link (a : Nat) : (s.putPhys loc (encMapped g)).IsUpperEntry a ↔
    s.IsUpperEntry a ∨ (s.IsDirectory (frameOf loc) ∧ frameOf a = g) := by
  have hd := ((State.Kept.refl hs).putPhys loc (encMapped g)).isDirectory_iff (frameOf a)
  exact (or_congr hd (h.isMiddle_link hs hup hn _)).trans or_assoc.symm

include hb

/-- A table linked in a Middle-Directory becomes a Table; the new table maps nothing yet (R203). -/
theorem State.Accounted.isTable_link (f : Nat) : (s.putPhys loc (encMapped g)).IsTable f ↔
    s.IsTable f ∨ (s.IsMiddle (frameOf loc) ∧ f = g) := by
  rw [← exists_entry_linked (P := s.IsMiddle) (h.frames.entry_inside hs (.inl hup)) hn
    (h.entryFrame_link hs hup) f]
  refine exists_congr fun a => and_congr_right fun _ => and_congr_right fun hf => ?_
  rw [h.isMiddle_link hs hup hn]
  refine or_iff_left ?_
  rintro ⟨-, rfl⟩
  rw [h.entryFrame_link hs hup] at hf
  split at hf
  · next e => exact h.frames.held_no_entries (a := loc) (e ▸ List.mem_cons_self) (.inl hup)
  · rw [hb.entryFrame] at hf; cases hf

/-- The entries after a table has been linked are the ones before and those of the new table. -/
theorem State.Accounted.entries_link (a : Nat) :
    ((s.putPhys loc (encMapped g)).IsUpperEntry a ∨ (s.putPhys loc (encMapped g)).IsLeafEntry a) ↔
      (s.IsUpperEntry a ∨ s.IsLeafEntry a) ∨ frameOf a = g := by
  rw [h.isUpper_link hs hup hn, State.IsLeafEntry, h.isTable_link hs hup hn hb]
  constructor
  · rintro ((hu | ⟨-, hg⟩) | (hl | ⟨-, hg⟩))
    · exact .inl (.inl hu)
    · exact .inr hg
    · exact .inl (.inr hl)
    · exact .inr hg
  · rintro ((hu | hl) | hg)
    · exact .inl (.inl hu)
    · exact .inr (.inl hl)
    · exact hup.imp (fun hd => .inr ⟨hd, hg⟩) (fun hm => .inr ⟨hm, hg⟩)

/-- An upper entry gets a held, empty table (R203). -/
theorem State.Accounted.linkTable : (s.putPhys loc (encMapped g)).Accounted held := by
  have hk := (State.Kept.refl hs).putPhys loc (encMapped g)
  have hframe := h.entryFrame_link hs hup
  have hslot := h.entrySlot_link hs hup
  have htable := h.isTable_link hs hup hn hb
  have hleaf : ∀ {a}, s.IsLeafEntry a → a ≠ loc := by
    rintro a ha rfl; exact h.frames.leaf_not_upper ha hup
  have hnew : ∀ {a}, frameOf a = g → a ≠ loc := by
    rintro a ha rfl
    exact h.frames.held_no_entries (ha ▸ List.mem_cons_self) (.inl hup)
  refine ⟨State.FramesAccounted.handOver (given := [(.entry loc, g)]) h.frames (fun _ => rfl)
    fun o f => ?_, h.slots.congr (fun _ => rfl) fun a i => ?_, h.queue.congr rfl fun a f => ?_,
    fun a ha => ?_⟩
  · cases o with
    | control p => simp [hk.owns_control]
    | root p => simp [hk.owns_root]
    | entry a =>
      simp only [State.Owns, h.entries_link hs hup hn hb, hframe, List.mem_singleton,
        Prod.mk.injEq, Owner.entry.injEq]
      by_cases ha : a = loc
      · simp [ha, hup, hn, eq_comm]
      · by_cases hg : frameOf a = g
        · simp [ha, (hg ▸ hb : s.Blank (frameOf a)).entryFrame]
        · simp [ha, hg]
  · simp only [State.SwapsLeaf, State.IsLeafEntry, htable, hslot]
    constructor
    · rintro ⟨ha | ⟨-, ha⟩, hi⟩
      · rw [if_neg (hleaf ha)] at hi; exact ⟨ha, hi⟩
      · rw [if_neg (hnew ha), (ha ▸ hb : s.Blank (frameOf a)).entrySlot] at hi; cases hi
    · rintro ⟨ha, hi⟩
      exact ⟨.inl ha, by rw [if_neg (hleaf ha)]; exact hi⟩
  · simp only [State.MapsLeaf, State.IsLeafEntry, htable, hframe]
    constructor
    · rintro ⟨ha | ⟨-, ha⟩, hi⟩
      · rw [if_neg (hleaf ha)] at hi; exact ⟨ha, hi⟩
      · rw [if_neg (hnew ha), (ha ▸ hb : s.Blank (frameOf a)).entryFrame] at hi; cases hi
    · rintro ⟨ha, hi⟩
      exact ⟨.inl ha, by rw [if_neg (hleaf ha)]; exact hi⟩
  · rw [hslot]
    split
    · rfl
    · rcases (h.isUpper_link hs hup hn a).1 ha with hu | ⟨-, hg⟩
      · exact h.upper a hu
      · exact (hg ▸ hb : s.Blank (frameOf a)).entrySlot

end Link

end HandOver

/-! ### A new binding -/

section Binding

variable {s t : State} {pid c r : Nat}

/-- Both registers of an unbound pid are 0 (R22). -/
theorem State.WellShaped.pcb_unbound (hs : s.WellShaped) (hp : pid < s.npid)
    (hu : s.pdbr pid = 0#8) : s.pcb pid = 0#8 := by
  rcases hs.procs_bound _ (hs.proc_mem hp) with hz | hz
  · exact hz.2
  · have h0 : (s.pdbr pid).toNat = 0 := by rw [hu]; rfl
    exact absurd hz.1 (by rw [show (s.proc pid).pdbr.toNat = 0 from h0]; omega)

section Registers

variable (hs : s.WellShaped) (hp : pid < s.npid) (hu : s.pdbr pid = 0#8)
include hs hp hu

/-- The control blocks after a binding: the new one as well (R231). -/
theorem State.WellShaped.owns_control_putProc (hc : 1 ≤ c) (hcn : c < s.nframes) (p f : Nat) :
    (s.putProc pid c r).Owns (.control p) f ↔ s.Owns (.control p) f ∨ (p = pid ∧ f = c) := by
  have hold := hs.pcb_unbound hp hu
  simp only [State.Owns, State.pcb, hs.proc_putProc hp, State.putProc_npid]
  by_cases he : p = pid
  · rw [State.pcb] at hold
    simp only [he, if_pos, hold, toNat_ofNat_frame hs hcn, BitVec.toNat_ofNat, true_and, hp]
    omega
  · simp [he]

/-- The root tables after a binding: the new one as well (R231). -/
theorem State.WellShaped.owns_root_putProc (hr : 1 ≤ r) (hrn : r < s.nframes) (p f : Nat) :
    (s.putProc pid c r).Owns (.root p) f ↔ s.Owns (.root p) f ∨ (p = pid ∧ f = r) := by
  simp only [State.Owns, State.pdbr, hs.proc_putProc hp, State.putProc_npid]
  by_cases he : p = pid
  · rw [State.pdbr] at hu
    simp only [he, if_pos, hu, toNat_ofNat_frame hs hrn, BitVec.toNat_ofNat, true_and, hp]
    omega
  · simp [he]

theorem State.WellShaped.isDirectory_putProc (hr : 1 ≤ r) (hrn : r < s.nframes) (f : Nat) :
    (s.putProc pid c r).IsDirectory f ↔ s.IsDirectory f ∨ f = r := by
  have hroot : ∀ u : State, u.IsDirectory f ↔ ∃ p, u.Owns (.root p) f := fun u =>
    ⟨State.IsDirectory.owned, fun ⟨p, hp, hf, h0⟩ => ⟨h0, p, hp, hf⟩⟩
  simp only [hroot, hs.owns_root_putProc hp hu hr hrn, exists_or, exists_eq_left]

end Registers

/-- The held control block and the held, empty root get their pid (R231). -/
theorem State.Accounted.putProc (h : s.Accounted [r, c]) (hs : s.WellShaped) (hp : pid < s.npid)
    (hu : s.pdbr pid = 0#8) (hb : s.Blank r) : (s.putProc pid c r).Accounted [] := by
  obtain ⟨hr, hrn⟩ := hs.frameUsed_inside (h.frames.held_used (f := r) (by simp))
  obtain ⟨hc, hcn⟩ := hs.frameUsed_inside (h.frames.held_used (f := c) (by simp))
  have hdir := hs.isDirectory_putProc (c := c) hp hu hr hrn
  have hmid : ∀ f, (s.putProc pid c r).IsMiddle f ↔ s.IsMiddle f :=
    isMiddle_congr rfl fun a g => and_congr_right fun hf => by
      rw [hdir]
      refine or_iff_left fun e => ?_
      rw [State.putProc_entryFrame, (e ▸ hb : s.Blank (frameOf a)).entryFrame] at hf
      cases hf
  have htab : ∀ f, (s.putProc pid c r).IsTable f ↔ s.IsTable f :=
    isTable_congr rfl fun a g => by rw [hmid, State.putProc_entryFrame]
  have hupper : ∀ a, (s.putProc pid c r).IsUpperEntry a ↔ s.IsUpperEntry a ∨ frameOf a = r :=
    fun a => (or_congr (hdir _) (hmid _)).trans or_right_comm
  refine ⟨State.FramesAccounted.handOver (given := [(.root pid, r), (.control pid, c)]) h.frames
    (fun _ => rfl) fun o f => ?_,
    h.slots.congr (fun _ => rfl) fun a i => and_congr_left fun _ => htab _,
    h.queue.congr rfl fun a f => and_congr_left fun _ => htab _, fun a ha => ?_⟩
  · cases o with
    | control p => simp [hs.owns_control_putProc hp hu hc hcn]
    | root p => simp [hs.owns_root_putProc hp hu hr hrn]
    | entry a =>
      simp only [State.Owns, hupper, State.IsLeafEntry, htab, State.putProc_entryFrame,
        List.mem_cons, Prod.mk.injEq, reduceCtorEq, false_and, List.not_mem_nil, or_self, or_false]
      by_cases hf : frameOf a = r
      · simp [(hf ▸ hb : s.Blank (frameOf a)).entryFrame]
      · simp [hf]
  · rw [State.putProc_entrySlot]
    rcases (hupper a).1 ha with ha | ha
    · exact h.upper a ha
    · exact (ha ▸ hb : s.Blank (frameOf a)).entrySlot

/-- BIND_PROC of an unbound pid keeps the invariants (R231). -/
theorem State.Accounted.bindProc_answer (h : s.Accounted []) (hs : s.WellShaped)
    (hp : pid < s.npid) (hu : s.pdbr pid = 0#8) (he : (bindProc pid s).answer = .next t) :
    t.Accounted [] := by
  rcases bindProc_cases hs hu with ⟨e, -, hb⟩ | ⟨c, s₁, e, ha, hc, -, hb⟩ |
    ⟨c, s₁, r, s₂, ha, hc, ha₂, hr, hb⟩
  · rw [hb, Result.answer_err] at he
    cases he
    exact h.respond hs _ _ _
  · have h₁ := (h.of_allocEvict hs ha).accounted
    rw [hb, Result.answer_err] at he
    cases he
    exact (h₁.putFrame_false hc.shaped).respond (hc.shaped.putFrame _ _) _ _ _
  · have h₁ := (h.of_allocEvict hs ha).accounted
    have h₂ := (h₁.of_allocEvict hc.shaped ha₂).accounted
    rw [hb, Result.answer_ok] at he
    cases he
    obtain ⟨hne, -⟩ := List.nodup_cons.1 h₂.frames.held_nodup
    have hrn : r < s₂.nframes := by rw [hr.nframes]; exact hr.inside
    have hcn : c < s₂.nframes := by rw [hr.nframes, hc.nframes]; exact hc.inside
    have hz := hr.shaped.putBytes (frameBase r) [0x00#8, 0x00#8, 0x00#8, 0x00#8]
    have h₃ := h₂.putBytes hr.shaped (g := r) (by simp)
      (bs := [0x00#8, 0x00#8, 0x00#8, 0x00#8]) rfl
    have h₄ := h₃.putBytes hz (g := c) (by simp) (bs := pcbBytes r) rfl
    have hk := hc.toKept.trans hr.toKept
    have hbound := h₄.putProc (hz.putBytes (frameBase c) (pcbBytes r)) (pid := pid)
      (by simpa [hk.npid] using hp) ((congrArg ProcRegs.pdbr (hk.proc pid)).trans hu) fun a hfa => by
        rw [hz.read_putBytes_frame hcn rfl, if_neg (by rintro rfl; simp [hfa] at hne)]
        exact hr.shaped.read_zeroed_frame hrn hfa
    exact hbound.respond ((hz.putBytes (frameBase c) (pcbBytes r)).putProc hc.pos hcn hr.pos hrn)
      _ _ _

end Binding

/-! ### The walk -/

section Walk

variable {s t : State} {g loc : Nat}

/-- A walk at this level stands on a table of its kind (R15). -/
def State.AtLevel (s : State) (lvl : Level) (f : Nat) : Prop :=
  match lvl with
  | .directory => s.IsDirectory f
  | .middleDirectory => s.IsMiddle f
  | .table => s.IsTable f

/-- What a level of the walk goes on to: a table of the next kind, or a data frame. -/
def State.Below (s : State) (lvl : Level) (g : Nat) : Prop :=
  match lvl with
  | .directory => s.IsMiddle g
  | .middleDirectory => s.IsTable g
  | .table => True

theorem walkLevel_mapped {lvl : Level} {b : Byte} {f : BitVec 6} (hb : s.phys.read loc = some b)
    (hc : classify b = .mapped f) : walkLevel lvl loc s = descend f.toNat s := by
  simp [walkLevel, readPhys_eq_ok hb, hc]

theorem walkLevel_unmapped {lvl : Level} {b : Byte} (hb : s.phys.read loc = some b)
    (hc : classify b = .unmapped) : walkLevel lvl loc s = create lvl loc s := by
  simp [walkLevel, readPhys_eq_ok hb, hc]

theorem walkLevel_swapped {lvl : Level} {b : Byte} {i : BitVec 7} (hb : s.phys.read loc = some b)
    (hc : classify b = .swapped i) : walkLevel lvl loc s = restore lvl loc i.toNat s := by
  simp [walkLevel, readPhys_eq_ok hb, hc]

/-- A Mapped entry below Directory or Middle-Directory maps a table of the next kind. -/
theorem State.AtLevel.below {lvl : Level} (ha : s.AtLevel lvl (frameOf loc))
    (hin : loc < Config.frameBytes * s.nframes) (hf : s.entryFrame loc = some g) :
    s.Below lvl g := by
  cases lvl with
  | directory => exact ⟨loc, hin, hf, ha⟩
  | middleDirectory => exact ⟨loc, hin, hf, ha⟩
  | table => trivial

/-- A new table keeps the invariants and is a table of the next kind (R203). -/
theorem State.Accounted.of_mapTable (h : s.Accounted []) (hs : s.WellShaped)
    (hup : s.IsUpperEntry loc) (hn : s.entryFrame loc = none) (hm : mapTable loc s = .ok g t) :
    t.Accounted [] ∧ (s.IsDirectory (frameOf loc) → t.IsMiddle g) ∧
      (s.IsMiddle (frameOf loc) → t.IsTable g) := by
  rcases mapTable_cases hs (h.frames.entry_inside hs (.inl hup)) with
    ⟨g', u, hal, ha, hx⟩ | ⟨e, -, hx⟩
  · rw [hx] at hm
    cases hm
    have hA := h.of_allocEvict hs ha
    have hz := hal.shaped.putBytes (frameBase g) [0x00#8, 0x00#8, 0x00#8, 0x00#8]
    have hent := hA.accounted.sameEntries_putBytes hal.shaped (g := g) (by simp)
      (bs := [0x00#8, 0x00#8, 0x00#8, 0x00#8]) rfl
    have hacc := hA.accounted.putBytes hal.shaped (g := g) (by simp)
      (bs := [0x00#8, 0x00#8, 0x00#8, 0x00#8]) rfl
    have hT := hA.tables.trans hent.tables
    have hup' := (hT.upper_iff loc).2 hup
    have hn' : (u.putBytes (frameBase g) [0x00#8, 0x00#8, 0x00#8, 0x00#8]).entryFrame loc = none := by
      rw [entryFrame_congr (hent.entries loc (.inl ((hA.tables.upper_iff loc).2 hup))),
        entryFrame_congr (hA.read_upper h hup), hn]
    have hblank : (u.putBytes (frameBase g) [0x00#8, 0x00#8, 0x00#8, 0x00#8]).Blank g := fun a hfa =>
      hal.shaped.read_zeroed_frame (by rw [hal.nframes]; exact hal.inside) hfa
    exact ⟨hacc.linkTable hz hup' hn' hblank,
      fun hd => (hacc.isMiddle_link hz hup' hn' g).2 (.inr ⟨(hT.directory _).2 hd, rfl⟩),
      fun hd => (hacc.isTable_link hz hup' hn' hblank g).2 (.inr ⟨(hT.middle _).2 hd, rfl⟩)⟩
  · rw [hx] at hm; cases hm

/-- Drawing the bytes of the frame held for a leaf leaves that leaf as it was (R204, R210). -/
theorem State.AllocatedFor.drawn (hA : s.AllocatedFor [] g t) (hl : s.IsLeafEntry loc)
    (hn : s.entryFrame loc = none) :
    (t.afterDraws.putBytes (frameBase g) t.drawnBytes).Accounted [g] ∧
    (t.afterDraws.putBytes (frameBase g) t.drawnBytes).IsLeafEntry loc ∧
    (t.afterDraws.putBytes (frameBase g) t.drawnBytes).phys.read loc = s.phys.read loc := by
  have hd := hA.accounted.afterDraws hA.shaped
  have hent := hd.sameEntries_putBytes hA.shaped.afterDraws (g := g) (by simp)
    (bs := t.drawnBytes) rfl
  have hl' : t.afterDraws.IsLeafEntry loc := (hA.tables.leaf_iff loc).2 hl
  exact ⟨hd.putBytes hA.shaped.afterDraws (by simp) rfl, (hent.tables.leaf_iff loc).2 hl',
    (hent.entries loc (.inr hl')).trans (hA.read_unmapped hn)⟩

/-- A new leaf keeps the invariants (R204). -/
theorem State.Accounted.of_mapLeaf (h : s.Accounted []) (hs : s.WellShaped) (hl : s.IsLeafEntry loc)
    (hn : s.entryFrame loc = none) (hi : s.entrySlot loc = none) (hm : mapLeaf loc s = .ok g t) :
    t.Accounted [] := by
  have hin := h.frames.entry_inside hs (.inr hl)
  rcases mapLeaf_cases hs hin with ⟨g', u, hal, ha, hx⟩ | ⟨e, -, hx⟩
  · rw [hx] at hm
    cases hm
    obtain ⟨hacc, hl', hread⟩ := (h.of_allocEvict hs ha).drawn hl hn
    have hz := hal.shaped.afterDraws.putBytes (frameBase g) u.drawnBytes
    refine hacc.fillLeaf hz hl' ((entryFrame_congr hread).trans hn)
      (((State.Kept.refl hz).putPhys _ _).pushQueue ?_) rfl rfl (fun i => ?_) rfl
    · simpa [hal.nframes] using hin
    · simp [(entrySlot_congr hread).trans hi]
  · rw [hx] at hm; cases hm

/-- A leaf swapped in keeps the invariants, and its slot is free (R205, R210). -/
theorem State.Accounted.of_swapIn (h : s.Accounted []) (hs : s.WellShaped) (hl : s.IsLeafEntry loc)
    {slot : Nat} (hn : s.entryFrame loc = none) (hi : s.entrySlot loc = some slot)
    (hv : validSlot s slot = true) (hm : swapIn loc slot s = .ok g t) : t.Accounted [] := by
  have hin := h.frames.entry_inside hs (.inr hl)
  obtain ⟨hlt, hused⟩ := validSlot_iff.1 hv
  rcases swapIn_cases hs hin hv with ⟨g', u, hal, ha, hx⟩ | ⟨e, -, hx⟩
  · rw [hx] at hm
    cases hm
    obtain ⟨hacc, hl', hread⟩ := (h.of_allocEvict hs ha).drawn hl hn
    have hz := hal.shaped.afterDraws.putBytes (frameBase g) u.drawnBytes
    obtain ⟨-, -, hns, -, -, -⟩ := hal.control
    refine hacc.fillLeaf hz hl' ((entryFrame_congr hread).trans hn)
      ((((State.Kept.refl hz).putSlot _ _).putPhys _ _).pushQueue ?_) rfl rfl (fun i => ?_) rfl
    · simpa [hal.nframes] using hin
    · rw [(entrySlot_congr hread).trans hi, State.pushQueue_slotUsed, State.putPhys_slotUsed,
        hz.slotUsed_putSlot (State.slotUsed_pos hused) (by simpa [hns] using hlt)]
      by_cases he : i = slot
      · simp [he]
      · simp [he, Ne.symm he]
  · rw [hx] at hm; cases hm

/-- One level of the walk keeps the invariants and goes on to a table of the next kind (R201). -/
theorem State.Accounted.of_walkLevel (h : s.Accounted []) (hs : s.WellShaped) {lvl : Level}
    (ha : s.AtLevel lvl (frameOf loc)) (hin : loc < Config.frameBytes * s.nframes)
    (hw : walkLevel lvl loc s = .ok g t) : t.Accounted [] ∧ t.Below lvl g := by
  obtain ⟨b, hb⟩ := Option.isSome_iff_exists.1 ((hs.phys_exists loc).2 hin)
  have hframe := entryFrame_of_read hb
  have hslot := entrySlot_of_read hb
  cases hc : classify b with
  | mapped f =>
    rw [walkLevel_mapped hb hc, descend] at hw
    rw [hc] at hframe
    split at hw
    · cases hw; exact ⟨h, ha.below hin hframe⟩
    · cases hw
  | unmapped =>
    rw [walkLevel_unmapped hb hc] at hw
    rw [hc] at hframe hslot
    cases lvl with
    | directory =>
      obtain ⟨hacc, hmid, -⟩ := h.of_mapTable hs (.inl ha) hframe hw
      exact ⟨hacc, hmid ha⟩
    | middleDirectory =>
      obtain ⟨hacc, -, htab⟩ := h.of_mapTable hs (.inr ha) hframe hw
      exact ⟨hacc, htab ha⟩
    | table => exact ⟨h.of_mapLeaf hs ha hframe hslot hw, trivial⟩
  | swapped i =>
    rw [walkLevel_swapped hb hc] at hw
    rw [hc] at hframe hslot
    cases lvl with
    | directory => cases hw
    | middleDirectory => cases hw
    | table =>
      rw [restore] at hw
      split at hw
      · next hv => exact ⟨h.of_swapIn hs ha hframe hslot hv hw, trivial⟩
      · cases hw

/-- A walk keeps the invariants if what follows its first level does, from whatever table or frame
that level goes on to (R206, R208). -/
theorem State.Accounted.walk_cons {lvl : Level} {idx : BitVec 2} {rest : List (Level × BitVec 2)}
    {f : Nat} (h : s.Accounted []) (hs : s.WellShaped) (hf : f < s.nframes) (ha : s.AtLevel lvl f)
    (hrest : ∀ u g, u.Accounted [] → u.WellShaped → g < u.nframes → u.Below lvl g →
      walk rest g u = .next t → t.Accounted [])
    (hw : walk ((lvl, idx) :: rest) f s = .next t) : t.Accounted [] := by
  have hin := entryAddr_inside hf idx
  rw [walk] at hw
  rcases walkLevel_cases hs lvl hin with ⟨g, u, hx, hr⟩ | ⟨e, hx⟩
  · obtain ⟨hacc, hbelow⟩ := h.of_walkLevel hs (by rwa [frameOf_entryAddr]) hin hx
    rw [hx] at hw
    exact hrest u g hacc hr.shaped (by rw [hr.nframes]; exact hr.inside) hbelow hw
  · rw [hx] at hw
    cases hw
    exact h.respond hs _ _ _

/-- The whole walk from a root keeps the invariants: its three levels stand on a Directory, a
Middle-Directory and a Table. -/
theorem State.Accounted.of_walk (h : s.Accounted []) (hs : s.WellShaped) {va : Byte} {f : Nat}
    (hf : f < s.nframes) (hd : s.IsDirectory f) (hw : walk (decompose va) f s = .next t) :
    t.Accounted [] := by
  refine h.walk_cons hs hf (lvl := .directory) hd (fun u m hu hus hm hmid hw => ?_) hw
  refine hu.walk_cons hus hm (lvl := .middleDirectory) hmid (fun v b hv hvs hb htab hw => ?_) hw
  refine hv.walk_cons hvs hb (lvl := .table) htab (fun x g hx hxs _ _ hw => ?_) hw
  cases hw
  exact hx.respond hxs _ _ _

end Walk

/-! ### Commands and steps -/

section Commands

variable {s t : State}

/-- Every command but INIT keeps the invariants, if the host keeps its duty (R35, R314). -/
theorem State.Accounted.exec_notInit (h : s.Accounted []) (hs : s.WellShaped) {i : Instr}
    (hi : NotInit i) (hduty : HostDuty s i) (he : exec i s = .next t) : t.Accounted [] := by
  rcases exec_notInit_cases hs hi with ⟨st, b, hx⟩ | ⟨pid, -, hp, hu, hx⟩ |
    ⟨pid, va, -, hp, hb, hx⟩ | ⟨a, v, rfl, -, hx⟩
  · rw [hx] at he; cases he
    exact h.respond hs _ _ _
  · exact h.bindProc_answer hs hp hu (hx ▸ he)
  · obtain ⟨hpos, hin⟩ := hs.pdbr_inside hp hb
    exact h.of_walk hs hin ⟨by omega, pid, hp, rfl⟩ (hx ▸ he)
  · obtain ⟨hupper, hleaf, -⟩ := hduty
    rw [hx] at he; cases he
    exact (h.putPhys hs v (not_or.2 ⟨hupper, hleaf⟩)).respond (hs.putPhys a v) _ _ _

/-- A state with no binding, no used frame or slot and an empty EQ has the invariants, whatever its
arenas hold. -/
theorem ownership_of_unused (hb : ∀ p, s.pdbr p = 0#8 ∧ s.pcb p = 0#8)
    (hf : ∀ f, s.frameUsed f = false) (hu : ∀ i, s.slotUsed i = false) (hq : s.queue = []) :
    s.Ownership := by
  have hd : ∀ f, ¬ s.IsDirectory f := by
    rintro f ⟨h0, p, -, hp⟩
    rw [(hb p).1] at hp; exact h0 hp.symm
  have hm : ∀ f, ¬ s.IsMiddle f := fun f ⟨a, _, _, h⟩ => hd _ h
  have hl : ∀ a, ¬ s.IsLeafEntry a := fun a ⟨b, _, _, h⟩ => hm _ h
  have hup : ∀ a, ¬ s.IsUpperEntry a := fun a h => h.elim (hd _) (hm _)
  have ho : ∀ o f, ¬ s.Owns o f := by
    intro o f h
    cases o with
    | control p =>
      obtain ⟨-, hp, h0⟩ := h
      rw [(hb p).2] at hp; exact h0 hp.symm
    | root p =>
      obtain ⟨hp, hf, h0⟩ := h
      exact hd f ⟨h0, p, hp, hf⟩
    | entry a => exact h.1.elim (hup a) (hl a)
  exact {
    allocated_owned := fun f h => by rw [hf] at h; cases h
    owned_allocated := fun o f h => (ho o f h).elim
    owner_unique := fun f o _ h => (ho o f h).elim
    swapped_used := fun a _ h => (hl a h).elim
    used_swapped := fun i h => by rw [hu] at h; cases h
    slot_unique := fun a _ _ h => (hl a h).elim
    queue_nodup := by rw [hq]; exact List.nodup_nil
    queue_exact := fun a => by simp [hq, hl a]
    upper_not_swapped := fun a h => (hup a h).elim }

/-- A bitmap with no bit set has no used index. -/
theorem Bitmap.bit_replicate_false (n i : Nat) :
    (Bitmap.bit (List.replicate n false) i == some true) = false := by
  cases i with
  | zero => rfl
  | succ k =>
    simp only [Bitmap.bit, List.getElem?_replicate]
    split <;> rfl

/-- The state of an accepted INIT has the invariants, whatever was there (R35). -/
theorem initialise_ownership (s : State) (nf ns : Nat) : (s.initialise nf ns).Ownership := by
  have hproc : ∀ p, (s.initialise nf ns).proc p = { pdbr := 0#8, pcb := 0#8 } := fun p => by
    rw [State.proc, State.initialise_procs, List.getD_eq_getElem?_getD, List.getElem?_replicate]
    split <;> rfl
  exact ownership_of_unused
    (fun p => ⟨congrArg ProcRegs.pdbr (hproc p), congrArg ProcRegs.pcb (hproc p)⟩)
    (fun f => Bitmap.bit_replicate_false _ f) (fun i => Bitmap.bit_replicate_false _ i) rfl

/-- A response changes no invariant. -/
theorem State.Ownership.respond (h : s.Ownership) (hs : s.WellShaped) (st : Status)
    (info : BitVec 4) (b : Byte) : (s.respond st info b).Ownership :=
  accounted_nil_iff.1 ((accounted_nil_iff.2 h).respond hs st info b)

/-- The host's stream is no part of the invariants. -/
theorem State.Ownership.issue (h : s.Ownership) (rest : List CommandWord) :
    (s.issue rest).Ownership :=
  ⟨h.1, h.2, h.3, h.4, h.5, h.6, h.7, h.8, h.9⟩

/-- Every command keeps the invariants, if the host keeps its duty (R35, R314). -/
theorem State.Ownership.of_exec (h : s.Ownership) (hs : s.WellShaped) {i : Instr}
    (hduty : HostDuty s i) (he : exec i s = .next t) : t.Ownership := by
  by_cases hi : NotInit i
  · exact accounted_nil_iff.1 ((accounted_nil_iff.2 h).exec_notInit hs hi hduty he)
  · cases i with
    | init psize ssize =>
      rw [exec_init] at he
      rcases execInit_cases psize ssize s with ⟨hp, hn, hx⟩ | hx
      · rw [hx] at he; cases he
        exact (initialise_ownership s _ _).respond
          (initialise_wellShaped hs.npid_pos hs.npid_le hp hn) _ _ _
      · rw [hx] at he; cases he
        exact h.respond hs _ _ _
    | bind | fault | prd | pwr => exact (hi trivial).elim

end Commands

/-- Settles O17: INIT leaves arenas, bitmaps and registers of the right size, and nothing owned. -/
theorem initEstablishesTheInvariants : Obligations.InitEstablishesTheInvariants := by
  unfold Obligations.InitEstablishesTheInvariants
  intro s t psize ssize h1 h2 hp hs he
  rw [exec_init, execInit_eq hp hs] at he
  cases he
  have hshape := initialise_wellShaped h1 h2 hp hs
  exact ⟨hshape.respond _ _ _, (initialise_ownership s _ _).respond hshape _ _ _⟩

/-- Settles O46, by the cases of a step: the invariants hold between commands, and within one they
hold with the frames it holds accounted for. -/
theorem stepKeepsTheOwnership : Obligations.StepKeepsTheOwnership := by
  unfold Obligations.StepKeepsTheOwnership
  intro s t hs ho hduty hstep
  rcases step_next_cases hstep with rfl | ⟨rest, rfl⟩ | ⟨w, rest, i, hc, hd, he⟩
  · exact ho
  · exact (ho.issue rest).respond (hs.issue rest) _ _ _
  · exact (ho.issue rest).of_exec (hs.issue rest) (hduty w rest i hc hd) he
end Sys2Proof.Machine
end

section
/-!
Proofs about the memories (20_memory.md): what a command may write in SWAP and in PHYS. Both rest on one
inversion of a level of the walk, `walkLevel_ok_cases`: it descends, or it fills a frame and an entry.
-/

namespace Sys2Proof.Machine

/-! ### What a level of the walk makes -/

/-- The state in which the frame `g` is an empty table and the entry at `loc` maps it (R203). -/
def State.withTable (s : State) (loc g : Nat) : State :=
  (s.putBytes (frameBase g) [0x00#8, 0x00#8, 0x00#8, 0x00#8]).putPhys loc (encMapped g)

/-- The state in which the frame `g` is a data frame and the entry at `loc` maps it and is in EQ
(R204). -/
def State.withLeaf (s : State) (loc g : Nat) : State :=
  ((s.afterDraws.putBytes (frameBase g) s.drawnBytes).putPhys loc (encMapped g)).pushQueue loc

section Made

variable {s t : State} {loc g : Nat}

/-- An entry is made for the frame `g`: it maps `g`, the bytes of `g` are new, and the rest of the
memories and FUSED are as they were. -/
structure State.Fills (s : State) (loc g : Nat) (t : State) : Prop where
  maps : t.entryFrame loc = some g
  read : ∀ a, a ≠ loc → frameOf a ≠ g → t.phys.read a = s.phys.read a
  fused : t.fused = s.fused
  swap : t.swap = s.swap

/-- Filling a frame that exists and then mapping it. -/
theorem State.WellShaped.fills (h : s.WellShaped) (hg : g < s.nframes)
    (hl : loc < Config.frameBytes * s.nframes) {bs : List Byte} (hb : bs.length = 4) :
    s.Fills loc g ((s.putBytes (frameBase g) bs).putPhys loc (encMapped g)) where
  maps := by
    have hx := ((h.putBytes (frameBase g) bs).phys_exists loc).2 hl
    rw [entryFrame_write hx (State.putPhys_phys _ loc _), if_pos rfl,
      frame_encMapped (lt_of_lt_of_le hg h.nframes_le)]
  read := fun a hne hfa => by
    rw [State.putPhys_phys, Memory.read_write_other _ hne, h.read_putBytes_frame hg hb, if_neg hfa]
  fused := rfl
  swap := rfl

theorem State.WellShaped.fills_withTable (h : s.WellShaped) (hg : g < s.nframes)
    (hl : loc < Config.frameBytes * s.nframes) : s.Fills loc g (s.withTable loc g) :=
  h.fills hg hl rfl

theorem State.WellShaped.fills_withLeaf (h : s.WellShaped) (hg : g < s.nframes)
    (hl : loc < Config.frameBytes * s.nframes) : s.Fills loc g (s.withLeaf loc g) :=
  have hd := h.afterDraws.fills hg hl (bs := s.drawnBytes) rfl
  ⟨hd.maps, hd.read, rfl, rfl⟩

/-- The entries of a new table are Unmapped, but for one that maps the table itself (R191). -/
theorem State.WellShaped.read_withTable (h : s.WellShaped) (hg : g < s.nframes) {a : Nat}
    (ha : frameOf a = g) (hne : a ≠ loc) : (s.withTable loc g).phys.read a = some 0x00#8 := by
  rw [State.withTable, State.putPhys_phys, Memory.read_write_other _ hne, h.read_zeroed_frame hg ha]

/-- A level of the walk that goes on (R201): it descends and changes nothing, or it allocates a frame
and makes a table, a leaf, or a leaf whose slot is released. -/
theorem walkLevel_ok_cases (h : s.WellShaped) {lvl : Level}
    (hl : loc < Config.frameBytes * s.nframes) (hw : walkLevel lvl loc s = .ok g t) :
    (s.entryFrame loc = some g ∧ t = s) ∨
    (s.entryFrame loc = none ∧ ∃ u, allocEvict s = .ok g u ∧ s.Allocated g u ∧
      ((lvl ≠ .table ∧ t = u.withTable loc g) ∨
        (lvl = .table ∧ t = u.withLeaf loc g) ∨
        (lvl = .table ∧ ∃ slot, s.entrySlot loc = some slot ∧ validSlot s slot = true ∧
          t = (u.withLeaf loc g).putSlot slot false))) := by
  obtain ⟨b, hb⟩ := Option.isSome_iff_exists.1 ((h.phys_exists loc).2 hl)
  have hframe := entryFrame_of_read hb
  have hslot := entrySlot_of_read hb
  have htable (hm : mapTable loc s = .ok g t) :
      ∃ u, allocEvict s = .ok g u ∧ s.Allocated g u ∧ t = u.withTable loc g := by
    rcases mapTable_cases h hl with ⟨g', u, hal, ha, hx⟩ | ⟨e, -, hx⟩
    · rw [hx] at hm; cases hm; exact ⟨u, ha, hal, rfl⟩
    · rw [hx] at hm; cases hm
  cases hc : classify b with
  | mapped f =>
    rw [walkLevel_mapped hb hc, descend] at hw
    rw [hc] at hframe
    split at hw
    · cases hw; exact .inl ⟨hframe, rfl⟩
    · cases hw
  | unmapped =>
    rw [walkLevel_unmapped hb hc] at hw
    rw [hc] at hframe
    refine .inr ⟨hframe, ?_⟩
    cases lvl with
    | directory =>
      obtain ⟨u, ha, hal, ht⟩ := htable hw
      exact ⟨u, ha, hal, .inl ⟨nofun, ht⟩⟩
    | middleDirectory =>
      obtain ⟨u, ha, hal, ht⟩ := htable hw
      exact ⟨u, ha, hal, .inl ⟨nofun, ht⟩⟩
    | table =>
      rw [create] at hw
      rcases mapLeaf_cases h hl with ⟨g', u, hal, ha, hx⟩ | ⟨e, -, hx⟩
      · rw [hx] at hw; cases hw; exact ⟨u, ha, hal, .inr (.inl ⟨rfl, rfl⟩)⟩
      · rw [hx] at hw; cases hw
  | swapped i =>
    rw [walkLevel_swapped hb hc] at hw
    rw [hc] at hframe hslot
    refine .inr ⟨hframe, ?_⟩
    cases lvl with
    | directory => cases hw
    | middleDirectory => cases hw
    | table =>
      rw [restore] at hw
      split at hw
      · next hv =>
        rcases swapIn_cases h hl hv with ⟨g', u, hal, ha, hx⟩ | ⟨e, -, hx⟩
        · rw [hx] at hw; cases hw
          exact ⟨u, ha, hal, .inr (.inr ⟨rfl, i.toNat, hslot, hv, rfl⟩)⟩
        · rw [hx] at hw; cases hw
      · cases hw

/-- A walk with a level left (R206): that level goes on and the rest is walked, or it fails having
changed nothing. -/
theorem walk_cons_cases (h : s.WellShaped) {lvl : Level} {idx : BitVec 2}
    {rest : List (Level × BitVec 2)} {f : Nat} (hf : f < s.nframes)
    (hw : walk ((lvl, idx) :: rest) f s = .next t) :
    (∃ g u, walkLevel lvl (entryAddr f idx) s = .ok g u ∧ s.Resolved g u ∧
      walk rest g u = .next t) ∨
    (∃ e, t = s.respond e lvl.code 0x00#8) := by
  rw [walk] at hw
  rcases walkLevel_cases h lvl (entryAddr_inside hf idx) with ⟨g, u, hx, hr⟩ | ⟨e, hx⟩
  · rw [hx] at hw; exact .inl ⟨g, u, hx, hr, hw⟩
  · rw [hx] at hw; cases hw; exact .inr ⟨e, rfl⟩

end Made

/-! ### What is written in SWAP -/

section Swap

variable {s t u : State}

/-- Every byte of SWAP that differs is byte 0 of a slot that was free and is now used (R52, R91). -/
def State.SwapWrites (s t : State) : Prop :=
  ∀ a, t.swap.read a ≠ s.swap.read a →
    ∃ slot, a = 4 * slot ∧ s.slotUsed slot = false ∧ t.slotUsed slot = true

/-- The same where no slot is released, so that it holds of one operation after another. -/
structure State.SwapGrows (s t : State) : Prop where
  used : ∀ i, s.slotUsed i = true → t.slotUsed i = true
  writes : s.SwapWrites t

theorem State.SwapWrites.of_swap_eq (h : t.swap = s.swap) : s.SwapWrites t :=
  fun a ha => (ha (by rw [h])).elim

theorem State.SwapGrows.of_eq (h : t.swap = s.swap) (hu : t.sused = s.sused) : s.SwapGrows t :=
  ⟨fun i hi => by rw [State.slotUsed, hu]; exact hi, .of_swap_eq h⟩

theorem State.SwapGrows.trans (h : s.SwapGrows t) (k : t.SwapGrows u) : s.SwapGrows u := by
  refine ⟨fun i hi => k.used i (h.used i hi), fun a ha => ?_⟩
  by_cases ht : t.swap.read a = s.swap.read a
  · obtain ⟨slot, rfl, hfree, hused⟩ := k.writes a (ht ▸ ha)
    exact ⟨slot, rfl, Bool.eq_false_iff.2 fun hs => by simp [h.used slot hs] at hfree, hused⟩
  · obtain ⟨slot, rfl, hfree, hused⟩ := h.writes a ht
    exact ⟨slot, rfl, hfree, k.used slot hused⟩

/-- What follows leaves SWAP and SUSED alone. -/
theorem State.SwapGrows.congr (h : s.SwapGrows t) (hx : u.swap = t.swap) (hu : u.sused = t.sused) :
    s.SwapGrows u := h.trans (.of_eq hx hu)

/-- An allocation writes SWAP only where it evicts, into the slot that SPEEK found (R193). -/
theorem State.WellShaped.allocEvict_swapGrows (h : s.WellShaped) {g : Nat}
    (ha : allocEvict s = .ok g t) : s.SwapGrows t := by
  rcases allocEvict_ok_cases h ha with hf | ⟨r, q, slot, v, -, hk, -, hf⟩
  · obtain ⟨-, -, -, -, rfl⟩ := falloc_some hf
    exact .of_eq rfl rfl
  · obtain ⟨-, -, -, -, rfl⟩ := falloc_some hf
    obtain ⟨h1, hn, hfree, -⟩ := speek_some hk
    have hu : ∀ i, ((s.evicted r slot v).putFrame g true).slotUsed i =
        if i = slot then true else s.slotUsed i := h.slotUsed_putSlot h1 hn true
    refine ⟨fun i hi => by rw [hu, hi]; exact ite_self _, fun a hne => ?_⟩
    have hslot : a = 4 * slot := by
      by_contra hx
      exact hne (Memory.read_write_other _ hx _)
    exact ⟨slot, hslot, by simp [State.slotUsed, hfree], by rw [hu, if_pos rfl]⟩

/-- Releasing a slot that was used when the writes began undoes none of them (R210). -/
theorem State.SwapGrows.release {i : Nat} (h : s.SwapGrows t) (ht : t.WellShaped)
    (hi : s.slotUsed i = true) (hn : i < t.nslots) : s.SwapWrites (t.putSlot i false) := by
  intro a ha
  obtain ⟨slot, rfl, hfree, hused⟩ := h.writes a ha
  refine ⟨slot, rfl, hfree, ?_⟩
  rw [ht.slotUsed_putSlot (State.slotUsed_pos hi) hn, if_neg]
  · exact hused
  · rintro rfl; rw [hi] at hfree; cases hfree

/-- No entry of the frame is Swapped, and none maps another frame: as a new table is, even where a
state without the invariants of R35 has its entry inside itself. -/
def State.Fresh (s : State) (f : Nat) : Prop :=
  ∀ a, frameOf a = f → s.entrySlot a = none ∧ ∀ g, s.entryFrame a = some g → g = f

theorem State.WellShaped.fresh_withTable (h : s.WellShaped) {loc g : Nat} (hg : g < s.nframes)
    (hl : loc < Config.frameBytes * s.nframes) : (s.withTable loc g).Fresh g := by
  intro a ha
  by_cases he : a = loc
  · have hm := (h.fills_withTable hg hl).maps
    rw [he]
    exact ⟨entrySlot_of_entryFrame hm, fun f hf => Option.some.inj (hf.symm.trans hm)⟩
  · have hz := h.read_withTable hg ha he
    exact ⟨entrySlot_of_read hz, fun f hf => by rw [entryFrame_of_read hz] at hf; cases hf⟩

/-- The walk (R206) and SWAP. A leaf is swapped in only where no level above it has evicted: below a
new table the walk meets no Swapped entry. So no slot that the walk takes is released by it. -/
theorem walk_swapWrites {levels : List (Level × BitVec 2)} {f : Nat}
    (hlast : levels.Pairwise fun x _ => x.1 ≠ .table) (h : s.WellShaped) (hf : f < s.nframes)
    (hw : walk levels f s = .next t) : s.SwapWrites t ∧ (s.Fresh f → s.SwapGrows t) := by
  have hboth : ∀ {s t : State} {f : Nat}, s.SwapGrows t →
      s.SwapWrites t ∧ (s.Fresh f → s.SwapGrows t) := fun h => ⟨h.writes, fun _ => h⟩
  induction levels generalizing s f with
  | nil => cases hw; exact hboth (.of_eq rfl rfl)
  | cons x rest ih =>
    obtain ⟨lvl, idx⟩ := x
    obtain ⟨hx, hrest⟩ := List.pairwise_cons.1 hlast
    have hin := entryAddr_inside hf idx
    rcases walk_cons_cases h hf hw with ⟨g, u, hl, hr, hw⟩ | ⟨e, rfl⟩
    · have hg : g < u.nframes := hr.nframes ▸ hr.inside
      obtain ⟨hwr, hgrow⟩ := ih hrest hr.shaped hg hw
      rcases walkLevel_ok_cases h hin hl with ⟨hm, rfl⟩ | ⟨-, v, ha, hal, hmade⟩
      · refine ⟨hwr, fun hfresh => hgrow ?_⟩
        obtain ⟨-, hself⟩ := hfresh _ (frameOf_entryAddr f idx)
        rwa [hself g hm]
      · have hev := h.allocEvict_swapGrows ha
        have hgv : g < v.nframes := hal.nframes ▸ hal.inside
        have hinv : entryAddr f idx < Config.frameBytes * v.nframes := hal.nframes ▸ hin
        rcases hmade with ⟨-, rfl⟩ | ⟨rfl, rfl⟩ | ⟨rfl, slot, hslot, hvalid, rfl⟩
        · have htab : s.SwapGrows (v.withTable (entryAddr f idx) g) := hev.congr rfl rfl
          exact hboth (htab.trans (hgrow (hal.shaped.fresh_withTable hgv hinv)))
        · obtain rfl := List.eq_nil_iff_forall_not_mem.2 fun y hy => hx y hy rfl
          cases hw
          exact hboth (hev.congr rfl rfl)
        · obtain rfl := List.eq_nil_iff_forall_not_mem.2 fun y hy => hx y hy rfl
          cases hw
          obtain ⟨hn, hused⟩ := validSlot_iff.1 hvalid
          have hns : slot < v.nslots := by
            obtain ⟨-, -, hv, -⟩ := hal.control
            rwa [hv]
          refine ⟨hev.release hal.shaped hused hns, fun hfresh => ?_⟩
          obtain ⟨hnone, -⟩ := hfresh _ (frameOf_entryAddr f idx)
          rw [hslot] at hnone; cases hnone
    · exact hboth (.of_eq rfl rfl)

/-- BIND_PROC (R231) releases no slot. -/
theorem bindProc_swapWrites {pid : Nat} (h : s.WellShaped) (hu : s.pdbr pid = 0#8)
    (he : (bindProc pid s).answer = .next t) : s.SwapWrites t := by
  rcases bindProc_cases h hu with ⟨e, -, hb⟩ | ⟨c, s₁, e, ha, -, -, hb⟩ |
    ⟨c, s₁, r, s₂, ha, hc, ha₂, -, hb⟩
  · rw [hb] at he; cases he
    exact .of_swap_eq rfl
  · rw [hb] at he; cases he
    exact ((h.allocEvict_swapGrows ha).congr rfl rfl).writes
  · rw [hb] at he; cases he
    have h₂ := (h.allocEvict_swapGrows ha).trans (hc.shaped.allocEvict_swapGrows ha₂)
    exact (h₂.congr rfl rfl).writes

/-- Settles O49, by what a command other than INIT can be: only BIND_PROC and the walk evict. -/
theorem swapChangesOnlyInNewlyUsedSlots : Obligations.SwapChangesOnlyInNewlyUsedSlots := by
  unfold Obligations.SwapChangesOnlyInNewlyUsedSlots
  intro s t i a hs hi he
  suffices hw : s.SwapWrites t from hw a
  rcases exec_notInit_cases hs hi with ⟨st, b, hx⟩ | ⟨pid, -, -, hu, hx⟩ |
    ⟨pid, va, -, hp, hb, hx⟩ | ⟨x, v, -, -, hx⟩
  · rw [hx] at he; cases he
    exact .of_swap_eq rfl
  · exact bindProc_swapWrites hs hu (hx ▸ he)
  · obtain ⟨-, hroot⟩ := hs.pdbr_inside hp hb
    have hlast : (decompose va).Pairwise fun x _ => x.1 ≠ .table := by simp [decompose]
    exact (walk_swapWrites hlast hs hroot (hx ▸ he)).1
  · rw [hx] at he; cases he
    exact .of_swap_eq rfl

end Swap

/-! ### What is written in PHYS and FUSED -/

section Frame

variable {s t u : State} {f g loc : Nat}

/-- The front of EQ evicted `k` times, the references `l` appended to it, and the entries `new` made,
each with the frame it maps; every other byte of PHYS and every other bit of FUSED is as it was. -/
structure State.GrownBy (s : State) (k : Nat) (l : List Byte) (new : List (Nat × Nat))
    (t : State) : Prop where
  queue : t.queue = s.queue.drop k ++ l
  read : ∀ a, (∀ r ∈ s.queue.take k, r.toNat ≠ a) →
    (∀ x f, (x, f) ∈ new → a ≠ x ∧ frameOf a ≠ f) → t.phys.read a = s.phys.read a
  used : ∀ i, t.frameUsed i = true ↔ s.frameUsed i = true ∨ ∃ x, (x, i) ∈ new

theorem State.GrownBy.refl (s : State) : s.GrownBy 0 [] [] s :=
  ⟨by simp, fun _ _ _ => rfl, fun i => by simp⟩

theorem State.GrownBy.respond {k : Nat} {l : List Byte} {new : List (Nat × Nat)}
    (h : s.GrownBy k l new t) (st : Status) (info : BitVec 4) (b : Byte) :
    s.GrownBy k l new (t.respond st info b) := ⟨h.queue, h.read, h.used⟩

theorem State.GrownBy.trans {k k' : Nat} {l : List Byte} {new new' : List (Nat × Nat)}
    (h : s.GrownBy k [] new t) (h' : t.GrownBy k' l new' u) :
    s.GrownBy (k + k') l (new ++ new') u := by
  have hq : t.queue = s.queue.drop k := by rw [h.queue, List.append_nil]
  refine ⟨by rw [h'.queue, hq, List.drop_drop], fun a ha hn => ?_, fun i => ?_⟩
  · rw [List.take_add, ← hq] at ha
    rw [h'.read a (fun r hr => ha r (List.mem_append_right _ hr))
        (fun x f hx => hn x f (List.mem_append_right _ hx)),
      h.read a (fun r hr => ha r (List.mem_append_left _ hr))
        (fun x f hx => hn x f (List.mem_append_left _ hx))]
  · rw [h'.used, h.used]
    simp only [List.mem_append, exists_or, or_assoc]

/-- The frame that an allocation takes after an eviction is the victim's: no other was free (R194). -/
theorem falloc_evicted {r : Byte} {slot v : Nat} (hv : 1 ≤ v) (hfull : falloc s = none)
    (hf : falloc (s.evicted r slot v) = some (g, t)) : g = v := by
  obtain ⟨h1, hn, hfree, -, -⟩ := falloc_some hf
  change (s.fused.put v false).bit g = some false at hfree
  rw [Bitmap.bit_put _ hv] at hfree
  by_contra hne
  rw [if_neg (fun hx => hne hx.1)] at hfree
  simp only [falloc, Option.map_eq_none_iff] at hfull
  exact Bitmap.firstFree_none.1 hfull g h1 hn hfree

/-- ALLOC_EVICT (R192) takes at most one element from EQ and writes its reference only; the frame it
answers is used, and no other bit of FUSED changes. -/
theorem State.Accounted.allocEvict_frame {held : List Nat} (h : s.Accounted held)
    (hs : s.WellShaped) (ha : allocEvict s = .ok g t) :
    ∃ k, k ≤ 1 ∧ t.queue = s.queue.drop k ∧
      (∀ a, (∀ r ∈ s.queue.take k, r.toNat ≠ a) → t.phys.read a = s.phys.read a) ∧
      ∀ i, t.frameUsed i = true ↔ s.frameUsed i = true ∨ i = g := by
  have hput {u : State} (hu : u.WellShaped) (hf : falloc u = some (g, t)) (i : Nat) :
      t.frameUsed i = true ↔ u.frameUsed i = true ∨ i = g := by
    obtain ⟨h1, hn, -, -, rfl⟩ := falloc_some hf
    rw [hu.frameUsed_putFrame h1 hn]
    by_cases hi : i = g <;> simp [hi]
  cases hf : falloc s with
  | some x =>
    obtain ⟨g', t'⟩ := x
    have hx : allocEvict s = .ok g' t' := by simp [allocEvict, hf]
    rw [hx] at ha; cases ha
    have hused := hput hs hf
    obtain ⟨-, -, -, -, rfl⟩ := falloc_some hf
    exact ⟨0, by omega, rfl, fun _ _ => rfl, hused⟩
  | none =>
    rcases allocEvict_ok_cases hs ha with hx | ⟨r, q, slot, v, hq, -, hr, hx⟩
    · rw [hf] at hx; cases hx
    · have hmap : s.MapsLeaf r.toNat v := ⟨h.queue.leaf (by simp [hq]), hr⟩
      obtain ⟨hv, hvn⟩ := hs.frameUsed_inside (h.frames.owned_used hmap.owned)
      obtain rfl := falloc_evicted hv hf hx
      have hused := hput (hs.evicted r slot g).shaped hx
      have hfree : ∀ i, (s.evicted r slot g).frameUsed i = if i = g then false else s.frameUsed i :=
        hs.frameUsed_putFrame hv hvn false
      obtain ⟨-, -, -, -, rfl⟩ := falloc_some hx
      refine ⟨1, le_rfl, by rw [List.drop_one]; rfl, fun a hna => ?_, fun i => ?_⟩
      · exact Memory.read_write_other _ (hna r (by simp [hq])).symm _
      · rw [hused, hfree]
        by_cases hi : i = g <;> simp [hi]

/-- What a level that makes an entry leaves: at most one eviction, and the entry. -/
theorem State.Accounted.grownBy_level {held : List Nat} {l : List Byte} (h : s.Accounted held)
    (hs : s.WellShaped) (ha : allocEvict s = .ok g u) (hm : u.Fills loc g t)
    (hq : t.queue = u.queue ++ l) : ∃ k, k ≤ 1 ∧ s.GrownBy k l [(loc, g)] t := by
  obtain ⟨k, hk, hqu, hread, hused⟩ := h.allocEvict_frame hs ha
  refine ⟨k, hk, by rw [hq, hqu], fun a har hn => ?_, fun i => ?_⟩
  · obtain ⟨hne, hfa⟩ := hn loc g (by simp)
    rw [hm.read a hne hfa, hread a har]
  · rw [State.frameUsed, hm.fused, ← State.frameUsed, hused]
    simp

/-- The Mapped entries of the upper levels still map what they mapped, with all that `Kept` says. -/
structure State.UpperKept (s t : State) : Prop extends s.Kept t where
  entry : ∀ a f, s.IsUpperEntry a → s.entryFrame a = some f → t.entryFrame a = some f

/-- So their tables are still tables. -/
theorem State.UpperKept.upper (h : s.UpperKept t) {a : Nat} (ha : s.IsUpperEntry a) :
    t.IsUpperEntry a := by
  refine ha.imp (h.isDirectory_iff _).2 ?_
  rintro ⟨b, hb, hf, hd⟩
  exact ⟨b, h.nframes ▸ hb, h.entry b _ (.inl hd) hf, (h.isDirectory_iff _).2 hd⟩

theorem State.UpperKept.trans (h : s.UpperKept t) (k : t.UpperKept u) : s.UpperKept u :=
  ⟨h.toKept.trans k.toKept, fun a f ha hf => k.entry a f (h.upper ha) (h.entry a f ha hf)⟩

theorem State.UpperKept.refl (h : s.WellShaped) : s.UpperKept s := ⟨.refl h, fun _ _ _ hf => hf⟩

theorem State.UpperKept.respond (h : s.UpperKept t) (st : Status) (info : BitVec 4) (b : Byte) :
    s.UpperKept (t.respond st info b) :=
  ⟨h.toKept.trans ⟨h.shaped.respond st info b, ⟨rfl, rfl, rfl, rfl, rfl, rfl⟩, rfl⟩, h.entry⟩

/-- A frame that is being given an owner holds no entry, so an entry made for it leaves the upper ones
alone. -/
theorem State.AllocatedFor.upperKept (hA : s.AllocatedFor [] g u) (h : s.Accounted [])
    (hk : s.Kept t) (hn : s.entryFrame loc = none) (hm : u.Fills loc g t) : s.UpperKept t := by
  refine ⟨hk, fun a f ha hf => ?_⟩
  have hne : a ≠ loc := by rintro rfl; rw [hn] at hf; cases hf
  have hfa : frameOf a ≠ g := fun hg =>
    hA.accounted.frames.held_no_entries (hg ▸ List.mem_cons_self)
      (.inl ((hA.tables.upper_iff a).2 ha))
  rw [entryFrame_congr ((hm.read a hne hfa).trans (hA.read_upper h ha)), hf]

/-! ### The path of a FAULT -/

/-- The Mapped entries of a host's walk: the one it stands on and those below the frame it maps. -/
theorem mem_hostWalk_cons {lvl : Level} {idx : BitVec 2} {rest : List (Level × BitVec 2)}
    {x i : Nat} : (x, some i) ∈ s.hostWalk ((lvl, idx) :: rest) f ↔
      ∃ g, s.entryFrame (entryAddr f idx) = some g ∧
        ((x = entryAddr f idx ∧ i = g) ∨ (x, some i) ∈ s.hostWalk rest g) := by
  cases he : s.entryFrame (entryAddr f idx) <;> simp [State.hostWalk, he]

theorem hostWalk_respond (levels : List (Level × BitVec 2)) (st : Status) (info : BitVec 4)
    (b : Byte) : (s.respond st info b).hostWalk levels f = s.hostWalk levels f := by
  induction levels generalizing f with
  | nil => rfl
  | cons x rest ih => simp only [State.hostWalk, State.respond_entryFrame, ih]

/-- What a walk over these levels leaves (R51, R208): at most one eviction a level, at most one new
reference in EQ, and in `new` exactly the entries that the path gained; no Mapped upper entry is
rewritten. -/
structure State.PathGrown (s : State) (levels : List (Level × BitVec 2)) (f : Nat)
    (k : Nat) (l : List Byte) (new : List (Nat × Nat)) (t : State) : Prop
    extends s.UpperKept t, s.GrownBy k l new t where
  evictions : k ≤ levels.length
  appended : l.length ≤ 1
  gained : ∀ x i, (x, i) ∈ new ↔
    (x, some i) ∈ t.hostWalk levels f ∧ (x, some i) ∉ s.hostWalk levels f
  unmapped : ∀ x i, (x, i) ∈ new → s.IsUpperEntry x → s.entryFrame x = none

section Levels

variable {lvl : Level} {idx : BitVec 2} {levels rest : List (Level × BitVec 2)} {k : Nat}
  {l : List Byte} {new : List (Nat × Nat)}

theorem State.WellShaped.pathGrown_refl (hs : s.WellShaped) : s.PathGrown levels f 0 [] [] s :=
  { UpperKept.refl hs, GrownBy.refl s with
    evictions := Nat.zero_le _
    appended := Nat.zero_le _
    gained := fun x i => by simp
    unmapped := nofun }

theorem State.PathGrown.respond (h : s.PathGrown levels f k l new t) (st : Status)
    (info : BitVec 4) (b : Byte) : s.PathGrown levels f k l new (t.respond st info b) :=
  { h.toUpperKept.respond st info b, h.toGrownBy.respond st info b with
    evictions := h.evictions
    appended := h.appended
    gained := fun x i => by rw [hostWalk_respond]; exact h.gained x i
    unmapped := h.unmapped }

/-- An entry that was not Mapped is made, at the end of the path. -/
theorem State.Accounted.pathGrown_made (h : s.Accounted []) (hs : s.WellShaped) (hk : s.Kept t)
    (hn : s.entryFrame (entryAddr f idx) = none) (ha : allocEvict s = .ok g u)
    (hm : u.Fills (entryAddr f idx) g t) (hq : t.queue = u.queue ++ l) (hl : l.length ≤ 1) :
    ∃ k, s.PathGrown [(lvl, idx)] f k l [(entryAddr f idx, g)] t := by
  obtain ⟨k, hk1, hgrown⟩ := h.grownBy_level hs ha hm hq
  refine ⟨k, { (h.of_allocEvict hs ha).upperKept h hk hn hm, hgrown with
    evictions := hk1, appended := hl, gained := fun x i => ?_, unmapped := fun x i hx _ => ?_ }⟩
  · simp [hn, hm.maps, State.hostWalk]
  · rw [List.mem_singleton] at hx; cases hx; exact hn

/-- A level that descends adds nothing to what the levels below it do (R202). -/
theorem State.PathGrown.cons_mapped (hup : s.IsUpperEntry (entryAddr f idx))
    (hm : s.entryFrame (entryAddr f idx) = some g) (hb : s.PathGrown rest g k l new t) :
    s.PathGrown ((lvl, idx) :: rest) f k l new t := by
  refine { hb with
    evictions := hb.evictions.trans (Nat.le_succ _), gained := fun x i => ?_ }
  have hout (hx : (x, i) ∈ new) : x ≠ entryAddr f idx := by
    rintro rfl
    rw [hb.unmapped _ i hx hup] at hm; cases hm
  simp only [mem_hostWalk_cons, hm, hb.entry _ g hup hm, Option.some.injEq, exists_eq_left',
    hb.gained] at hout ⊢
  tauto

/-- A level that makes a table, and what the levels below the new, empty table do (R203). -/
theorem State.PathGrown.cons_made {k' : Nat} (hup : s.IsUpperEntry (entryAddr f idx))
    (hn : s.entryFrame (entryAddr f idx) = none) (hm : u.entryFrame (entryAddr f idx) = some g)
    (hempty : ∀ x i, (x, some i) ∉ u.hostWalk rest g)
    (hl : s.PathGrown [(lvl, idx)] f k [] [(entryAddr f idx, g)] u)
    (hb : u.PathGrown rest g k' l new t) :
    s.PathGrown ((lvl, idx) :: rest) f (k + k') l ((entryAddr f idx, g) :: new) t := by
  have hup' := hl.toUpperKept.upper hup
  refine { hl.toUpperKept.trans hb.toUpperKept, hl.toGrownBy.trans hb.toGrownBy with
    evictions := ?_, appended := hb.appended, gained := fun x i => ?_,
    unmapped := fun x i hx hxu => ?_ }
  · have h1 := hl.evictions
    have h2 := hb.evictions
    simp only [List.length_cons, List.length_nil] at h1 ⊢
    omega
  · simp [mem_hostWalk_cons, hn, hb.entry _ g hup' hm, hb.gained, hempty]
  · rcases List.mem_cons.1 hx with he | hx
    · cases he; exact hn
    · by_contra hne
      obtain ⟨j, hj⟩ := Option.ne_none_iff_exists'.1 hne
      have hu := hb.unmapped x i hx (hl.toUpperKept.upper hxu)
      rw [hl.entry x j hxu hj] at hu; cases hu

/-- A host's walk below a new table finds nothing Mapped (R191). -/
theorem State.WellShaped.hostWalk_withTable (hs : s.WellShaped) (hg : g < s.nframes)
    (hl : frameOf loc ≠ g) (x i : Nat) : (x, some i) ∉ (s.withTable loc g).hostWalk rest g := by
  cases rest with
  | nil => exact List.not_mem_nil
  | cons y rest =>
    obtain ⟨lvl, idx⟩ := y
    have hne : entryAddr g idx ≠ loc := by rintro rfl; exact hl (frameOf_entryAddr g idx)
    have hz := entryFrame_of_read (hs.read_withTable hg (frameOf_entryAddr g idx) hne)
    rw [mem_hostWalk_cons, hz]
    rintro ⟨_, hx, -⟩
    cases hx

/-- The leaf level of the walk (R204, R205). -/
theorem State.Accounted.pathGrown_leaf (h : s.Accounted []) (hs : s.WellShaped)
    (hf : f < s.nframes) (hw : walk [(.table, idx)] f s = .next t) :
    ∃ k l new, s.PathGrown [(.table, idx)] f k l new t := by
  have hin := entryAddr_inside hf idx
  rcases walk_cons_cases hs hf hw with ⟨g, u, hx, hr, hw⟩ | ⟨e, rfl⟩
  · cases hw
    rcases walkLevel_ok_cases hs hin hx with ⟨-, rfl⟩ | ⟨hn, v, ha, hal, hmade⟩
    · exact ⟨0, [], [], hs.pathGrown_refl.respond _ _ _⟩
    · have hfill := hal.shaped.fills_withLeaf (hal.nframes ▸ hal.inside) (hal.nframes ▸ hin)
      rcases hmade with ⟨hne, -⟩ | ⟨-, rfl⟩ | ⟨-, slot, -, -, rfl⟩
      · exact absurd rfl hne
      · obtain ⟨k, hk⟩ := h.pathGrown_made (lvl := .table) hs hr.toKept hn ha hfill rfl le_rfl
        exact ⟨k, _, _, hk.respond _ _ _⟩
      · obtain ⟨k, hk⟩ := h.pathGrown_made (lvl := .table) hs hr.toKept hn ha
          ⟨hfill.maps, hfill.read, hfill.fused, hfill.swap⟩ rfl le_rfl
        exact ⟨k, _, _, hk.respond _ _ _⟩
  · exact ⟨0, [], [], hs.pathGrown_refl.respond _ _ _⟩

/-- An upper level of the walk, over whatever the levels below it do (R202, R203). -/
theorem State.Accounted.pathGrown_upper (h : s.Accounted []) (hs : s.WellShaped)
    (hf : f < s.nframes) (hlvl : lvl ≠ .table) (ha : s.AtLevel lvl f)
    (hrest : ∀ u g, u.Accounted [] → u.WellShaped → g < u.nframes → u.Below lvl g →
      walk rest g u = .next t → ∃ k l new, u.PathGrown rest g k l new t)
    (hw : walk ((lvl, idx) :: rest) f s = .next t) :
    ∃ k l new, s.PathGrown ((lvl, idx) :: rest) f k l new t := by
  have hin := entryAddr_inside hf idx
  have ha' : s.AtLevel lvl (frameOf (entryAddr f idx)) := by rwa [frameOf_entryAddr]
  have hup : s.IsUpperEntry (entryAddr f idx) := by
    cases lvl with
    | directory => exact .inl ha'
    | middleDirectory => exact .inr ha'
    | table => exact absurd rfl hlvl
  rcases walk_cons_cases hs hf hw with ⟨g, u, hx, hr, hw⟩ | ⟨e, rfl⟩
  · obtain ⟨hacc, hbelow⟩ := h.of_walkLevel hs ha' hin hx
    obtain ⟨k, l, new, hb⟩ := hrest u g hacc hr.shaped (hr.nframes ▸ hr.inside) hbelow hw
    rcases walkLevel_ok_cases hs hin hx with ⟨hm, rfl⟩ | ⟨hn, v, hal', hal, hmade⟩
    · exact ⟨k, l, new, hb.cons_mapped hup hm⟩
    · have hg : g < v.nframes := hal.nframes ▸ hal.inside
      rcases hmade with ⟨-, rfl⟩ | ⟨rfl, -⟩ | ⟨rfl, -⟩
      · have hfill := hal.shaped.fills_withTable hg (hal.nframes ▸ hin)
        have hA := h.of_allocEvict hs hal'
        have hfree : frameOf (entryAddr f idx) ≠ g := fun he =>
          hA.accounted.frames.held_no_entries (he ▸ List.mem_cons_self)
            (.inl ((hA.tables.upper_iff _).2 hup))
        obtain ⟨k', hk⟩ := h.pathGrown_made (lvl := lvl) (l := []) hs hr.toKept hn hal' hfill
          (List.append_nil _).symm (Nat.zero_le _)
        exact ⟨_, _, _, .cons_made hup hn hfill.maps (hal.shaped.hostWalk_withTable hg hfree) hk hb⟩
      · exact absurd rfl hlvl
      · exact absurd rfl hlvl
  · exact ⟨0, [], [], hs.pathGrown_refl.respond _ _ _⟩

/-- The whole walk from a root (R206): its levels stand on a Directory, a Middle-Directory and a
Table. -/
theorem State.Accounted.pathGrown_walk {va : Byte} (h : s.Accounted []) (hs : s.WellShaped)
    (hf : f < s.nframes) (hd : s.IsDirectory f) (hw : walk (decompose va) f s = .next t) :
    ∃ k l new, s.PathGrown (decompose va) f k l new t := by
  refine h.pathGrown_upper hs hf nofun (lvl := .directory) hd (fun u m hu hus hm hmid hw => ?_) hw
  refine hu.pathGrown_upper hus hm nofun (lvl := .middleDirectory) hmid
    (fun v b hv hvs hb _ hw => ?_) hw
  exact hv.pathGrown_leaf hvs hb hw

end Levels

/-- Settles O33: the walk's new entries are those that the path has after it and had not before. -/
theorem faultWritesOnlyWhatItMaps : Obligations.FaultWritesOnlyWhatItMaps := by
  unfold Obligations.FaultWritesOnlyWhatItMaps
  intro s t pid va hs ho hr hp hb he
  rw [exec_fault, execFault_bound hr hp hb] at he
  obtain ⟨hpos, hin⟩ := hs.pdbr_inside hp hb
  obtain ⟨k, l, new, hgrown⟩ := (accounted_nil_iff.2 ho).pathGrown_walk hs hin
    ⟨by omega, pid, hp, rfl⟩ he
  have hnew (x i : Nat) :
      (x, i) ∈ new ↔ (x, some i) ∈ t.pathOf pid va ∧ (x, some i) ∉ s.pathOf pid va := by
    have hroot : t.pdbr pid = s.pdbr pid := congrArg ProcRegs.pdbr (hgrown.toKept.proc pid)
    rw [State.pathOf, State.pathOf, hroot]
    exact hgrown.gained x i
  refine ⟨k, l, hgrown.evictions, hgrown.appended, hgrown.queue, fun a ha hn => ?_, fun i => ?_⟩
  · refine hgrown.read a ha fun x f hx => ?_
    obtain ⟨ht, hs'⟩ := (hnew x f).1 hx
    exact hn x f ht hs'
  · simp only [hgrown.used, hnew]

end Frame

end Sys2Proof.Machine
end

section
/-!
Proofs about the encodings (30_encoding.md): a legal word is its OP, its operands and zeros, which
is what both the decoder reads and the encoder writes; the illegal words; the response word.
-/

namespace Sys2Proof.Machine

/-! ### Fields of a bit vector -/

section Fields

variable {n m k start len : Nat}

/-- A concatenation determines its parts. -/
theorem append_eq_append_iff {a c : BitVec n} {b d : BitVec m} :
    a ++ b = c ++ d ↔ a = c ∧ b = d := by
  constructor
  · intro h
    have hhi := congrArg (BitVec.extractLsb' m n) h
    have hlo := congrArg (BitVec.extractLsb' 0 m) h
    simp only [BitVec.extractLsb'_append_eq_left, BitVec.extractLsb'_append_eq_right] at hhi hlo
    exact ⟨hhi, hlo⟩
  · rintro ⟨rfl, rfl⟩; rfl

/-- A field is a concatenation exactly when its upper and its lower part are the two parts. -/
theorem extractLsb'_eq_append_iff {w : BitVec k} {a : BitVec n} {b : BitVec m} :
    w.extractLsb' start (n + m) = a ++ b ↔
      w.extractLsb' (start + m) n = a ∧ w.extractLsb' start m = b := by
  rw [← BitVec.extractLsb'_append_extractLsb'_eq_extractLsb' rfl, append_eq_append_iff]

/-- The `len` bits from bit `start` up, as a mask on command words. -/
def fieldMask (start len : Nat) : CommandWord := (BitVec.allOnes len).setWidth 32 <<< start

/-- A mask of one field finds exactly the bits of that field. -/
theorem and_fieldMask_eq_zero_iff {w : CommandWord} :
    w &&& fieldMask start len = 0#32 ↔ w.extractLsb' start len = 0#len := by
  constructor <;> intro h <;> ext i hi
  · have hbit := congrArg (BitVec.getLsbD · (start + i)) h
    by_cases hin : start + i < 32
    · simpa [fieldMask, hin, hi] using hbit
    · simp [BitVec.getLsbD_of_ge w (start + i) (by omega)]
  · by_cases hin : start ≤ i ∧ i - start < len
    · have hbit := congrArg (BitVec.getLsbD · (i - start)) h
      have hfield : w[i] = false := by
        simpa [hin.2, Nat.add_sub_cancel' hin.1, BitVec.getLsbD_eq_getElem hi] using hbit
      simp [hfield]
    · have hmask : (fieldMask start len)[i] = false := by
        simp [fieldMask]; omega
      simp [hmask]

end Fields

/-! ### What the decoder reads -/

/-- The operands of the command stand in the word's fields for them (R93, R94). -/
def OperandsOf (w : CommandWord) (i : Instr) : Prop :=
  match i with
  | .init psize ssize => (psizeField w).toNat = psize ∧ (ssizeField w).toNat = ssize
  | .bind pid => (pidField w).toNat = pid
  | .fault pid va => (pidField w).toNat = pid ∧ lowField w = va
  | .prd addr => (addrField w).toNat = addr
  | .pwr addr data => (addrField w).toNat = addr ∧ lowField w = data

/-- The bits of the operand part that R93 writes as 0 in the command's format are 0. -/
def OperandZeros (w : CommandWord) (i : Instr) : Prop :=
  match i with
  | .init _ _ => True
  | .bind _ => w.extractLsb' 0 16 = 0#16
  | .fault _ _ => w.extractLsb' 8 8 = 0#8
  | .prd _ => w.extractLsb' 16 8 = 0#8 ∧ w.extractLsb' 0 8 = 0#8
  | .pwr _ _ => w.extractLsb' 16 8 = 0#8

/-- Every reserved bit of the command's format is 0 (R92, R93). -/
def ReservedZeros (w : CommandWord) (i : Instr) : Prop :=
  w.extractLsb' 24 4 = 0#4 ∧ OperandZeros w i

variable {w : CommandWord} {i : Instr} {psize ssize pid addr n : Nat} {b : Byte}

/-- The masks of the five formats, field by field (R93). -/
theorem reservedMask_eq :
    reservedMask 0x1#4 = fieldMask 24 4 ∧
    reservedMask 0x2#4 = fieldMask 24 4 ||| fieldMask 0 16 ∧
    reservedMask 0x3#4 = fieldMask 24 4 ||| fieldMask 8 8 ∧
    reservedMask 0x4#4 = fieldMask 24 4 ||| (fieldMask 16 8 ||| fieldMask 0 8) ∧
    reservedMask 0x5#4 = fieldMask 24 4 ||| fieldMask 16 8 := by decide

/-- The decoder's mask test says that every reserved bit of the format is 0 (R93, R98). -/
theorem and_reservedMask_eq_zero_iff :
    w &&& reservedMask (opcodeOf i) = 0#32 ↔ ReservedZeros w i := by
  obtain ⟨hinit, hbind, hfault, hprd, hpwr⟩ := reservedMask_eq
  cases i <;>
    simp only [opcodeOf, ReservedZeros, OperandZeros, hinit, hbind, hfault, hprd, hpwr,
      BitVec.and_or_distrib_left, BitVec.or_eq_zero_iff, and_fieldMask_eq_zero_iff, and_true]

/-- The decoder's choice of a command, before the reserved bits are looked at (R94, R95). -/
theorem commandOf_eq_some_iff :
    commandOf w = some i ↔ opField w = opcodeOf i ∧ OperandsOf w i := by
  constructor
  · intro h
    unfold commandOf at h
    split_ifs at h with h1 h2 h3 h4 h5 <;> cases h
    · exact ⟨h1, rfl, rfl⟩
    · exact ⟨h2, rfl⟩
    · exact ⟨h3, rfl, rfl⟩
    · exact ⟨h4, rfl⟩
    · exact ⟨h5, rfl, rfl⟩
  · rintro ⟨hop, harg⟩
    cases i <;> simp_all [commandOf, opcodeOf, OperandsOf]

/-- OP names no command exactly at 0x0 and 0x6 .. 0xF (R95). -/
theorem commandOf_eq_none_iff : commandOf w = none ↔ opField w = 0x0#4 ∨ 0x6#4 ≤ opField w := by
  have hop : ∀ op : BitVec 4, op ≠ 0x1#4 ∧ op ≠ 0x2#4 ∧ op ≠ 0x3#4 ∧ op ≠ 0x4#4 ∧ op ≠ 0x5#4 ↔
      op = 0x0#4 ∨ 0x6#4 ≤ op := by decide
  rw [← hop, commandOf]
  split_ifs <;> simp_all

/-- The three answers of the decoder (R98, R250). -/
theorem decode_cases (w : CommandWord) :
    (commandOf w = none ∧ decode w = .error .reservedOpcode) ∨
    (∃ i, commandOf w = some i ∧ ReservedZeros w i ∧ decode w = .ok i) ∨
    (∃ i, commandOf w = some i ∧ ¬ ReservedZeros w i ∧ decode w = .error .reservedBits) := by
  unfold decode
  cases hc : commandOf w with
  | none => exact .inl ⟨rfl, rfl⟩
  | some i =>
    obtain ⟨hop, -⟩ := commandOf_eq_some_iff.1 hc
    rw [hop]
    by_cases hz : ReservedZeros w i
    · exact .inr (.inl ⟨i, rfl, hz, if_pos (and_reservedMask_eq_zero_iff.2 hz)⟩)
    · exact .inr (.inr ⟨i, rfl, hz, if_neg (mt and_reservedMask_eq_zero_iff.1 hz)⟩)

/-! ### What the encoder writes -/

/-- A word is an encoding exactly when OP, RSV0 and the operand part are the encoding's (R92). -/
theorem eq_encode_iff : w = encode i ↔
    (opField w = opcodeOf i ∧ w.extractLsb' 24 4 = 0#4) ∧ w.extractLsb' 0 24 = operandBits i :=
  calc w = encode i
    _ ↔ w.extractLsb' 0 (4 + 4 + 24) = encode i := by rw [BitVec.extractLsb'_eq_self]
    _ ↔ w.extractLsb' 24 (4 + 4) = opcodeOf i ++ 0#4 ∧ w.extractLsb' 0 24 = operandBits i :=
      extractLsb'_eq_append_iff
    _ ↔ _ := and_congr_left' extractLsb'_eq_append_iff

/-! The operand part of each format, field by field (R93). -/

theorem eq_operandBits_init_iff : w.extractLsb' 0 24 = operandBits (.init psize ssize) ↔
    psizeField w = BitVec.ofNat 12 psize ∧ ssizeField w = BitVec.ofNat 12 ssize :=
  extractLsb'_eq_append_iff (n := 12) (m := 12)

theorem eq_operandBits_bind_iff : w.extractLsb' 0 24 = operandBits (.bind pid) ↔
    pidField w = BitVec.ofNat 8 pid ∧ w.extractLsb' 0 16 = 0#16 :=
  extractLsb'_eq_append_iff (n := 8) (m := 16)

/-- The three remaining formats are three bytes side by side. -/
theorem eq_threeBytes_iff {a b c : Byte} : w.extractLsb' 0 24 = a ++ b ++ c ↔
    (w.extractLsb' 16 8 = a ∧ w.extractLsb' 8 8 = b) ∧ w.extractLsb' 0 8 = c :=
  (extractLsb'_eq_append_iff (n := 8 + 8) (m := 8)).trans
    (and_congr_left' extractLsb'_eq_append_iff)

theorem eq_operandBits_fault_iff : w.extractLsb' 0 24 = operandBits (.fault pid b) ↔
    (pidField w = BitVec.ofNat 8 pid ∧ w.extractLsb' 8 8 = 0#8) ∧ lowField w = b :=
  eq_threeBytes_iff

theorem eq_operandBits_prd_iff : w.extractLsb' 0 24 = operandBits (.prd addr) ↔
    (w.extractLsb' 16 8 = 0#8 ∧ addrField w = BitVec.ofNat 8 addr) ∧ w.extractLsb' 0 8 = 0#8 :=
  eq_threeBytes_iff

theorem eq_operandBits_pwr_iff : w.extractLsb' 0 24 = operandBits (.pwr addr b) ↔
    (w.extractLsb' 16 8 = 0#8 ∧ addrField w = BitVec.ofNat 8 addr) ∧ lowField w = b :=
  eq_threeBytes_iff

/-! A number is the value of a field exactly when it fits the field and its bits are there (R94). -/

theorem toNat_eq_size_iff {x : BitVec 12} :
    x.toNat = n ↔ sizeFits n = true ∧ x = BitVec.ofNat 12 n := by
  simp [sizeFits, BitVec.toNat_eq_nat]

theorem toNat_eq_pid_iff {x : BitVec 8} :
    x.toNat = n ↔ pidFits n = true ∧ x = BitVec.ofNat 8 n := by
  simp [pidFits, BitVec.toNat_eq_nat]

theorem toNat_eq_addr_iff {x : BitVec 8} :
    x.toNat = n ↔ addrFits n = true ∧ x = BitVec.ofNat 8 n := by
  simp [addrFits, BitVec.toNat_eq_nat]

/-- The encoder's operand part, and operands that fit, say the same as the decoder's reading of the
fields, and zeros in the other bits. -/
theorem wellFormed_and_eq_operandBits_iff :
    i.wellFormed = true ∧ w.extractLsb' 0 24 = operandBits i ↔
      OperandsOf w i ∧ OperandZeros w i := by
  cases i with
  | init psize ssize =>
    simp only [Instr.wellFormed, Bool.and_eq_true, eq_operandBits_init_iff, OperandsOf,
      OperandZeros, toNat_eq_size_iff]
    tauto
  | bind pid =>
    rw [Instr.wellFormed, eq_operandBits_bind_iff, OperandsOf, OperandZeros, toNat_eq_pid_iff,
      and_assoc]
  | fault pid va =>
    rw [Instr.wellFormed, eq_operandBits_fault_iff, OperandsOf, OperandZeros, toNat_eq_pid_iff]
    tauto
  | prd addr =>
    rw [Instr.wellFormed, eq_operandBits_prd_iff, OperandsOf, OperandZeros, toNat_eq_addr_iff]
    tauto
  | pwr addr data =>
    rw [Instr.wellFormed, eq_operandBits_pwr_iff, OperandsOf, OperandZeros, toNat_eq_addr_iff]
    tauto

/-- A well-formed command's encoding, by what the decoder reads from it. -/
theorem wellFormed_and_encode_eq_iff :
    i.wellFormed = true ∧ encode i = w ↔ commandOf w = some i ∧ ReservedZeros w i := by
  have henc := wellFormed_and_eq_operandBits_iff (w := w) (i := i)
  rw [eq_comm (a := encode i), eq_encode_iff, commandOf_eq_some_iff, ReservedZeros]
  tauto

/-! ### Decoding and encoding -/

/-- The one word that decodes to a command is its encoding, and the command is well formed (R93,
R98, R101). -/
theorem decode_eq_ok_iff : decode w = .ok i ↔ i.wellFormed = true ∧ encode i = w := by
  rw [wellFormed_and_encode_eq_iff]
  rcases decode_cases w with ⟨hc, hd⟩ | ⟨j, hc, hz, hd⟩ | ⟨j, hc, hz, hd⟩
  · simp [hc, hd]
  · rw [hc, hd, Except.ok.injEq, Option.some.injEq]
    exact ⟨fun h => ⟨h, h ▸ hz⟩, And.left⟩
  · rw [hc, hd, Option.some.injEq]
    exact ⟨nofun, fun ⟨h, hi⟩ => absurd (h ▸ hi) hz⟩

/-- Settles O1: a well-formed command's own encoding decodes to it. -/
theorem decodeOfEncodeIsTheCommand : Obligations.DecodeOfEncodeIsTheCommand := by
  unfold Obligations.DecodeOfEncodeIsTheCommand
  exact fun i hi => decode_eq_ok_iff.2 ⟨hi, rfl⟩

/-- Settles O2, by the other direction of the same equivalence. -/
theorem encodeOfDecodeIsTheWord : Obligations.EncodeOfDecodeIsTheWord := by
  unfold Obligations.EncodeOfDecodeIsTheWord
  exact fun w i hd => decode_eq_ok_iff.1 hd

/-- Settles O4: each word is the encoding of its command. -/
theorem wordsDecodeAsTheTableWritesThem : Obligations.WordsDecodeAsTheTableWritesThem := by
  unfold Obligations.WordsDecodeAsTheTableWritesThem
  simp only [decode_eq_ok_iff]
  decide

/-! ### Illegal words -/

theorem illegalWord_of_commandOf_eq_none (h : commandOf w = none) : IllegalWord w :=
  (commandOf_eq_none_iff.1 h).imp_right .inl

/-- Under a legal OP, R98's list of illegal words names the reserved bits of that OP's format. -/
theorem illegalWord_iff_not_reservedZeros (h : commandOf w = some i) :
    IllegalWord w ↔ ¬ ReservedZeros w i := by
  obtain ⟨hop, -⟩ := commandOf_eq_some_iff.1 h
  cases i <;> simp [IllegalWord, hop, opcodeOf, ReservedZeros, OperandZeros] <;> tauto

/-- Settles O3, by the three answers of the decoder. -/
theorem reservedWordsAreRefusedByName : Obligations.ReservedWordsAreRefusedByName := by
  unfold Obligations.ReservedWordsAreRefusedByName
  intro w
  rw [← opField, ← commandOf_eq_none_iff]
  rcases decode_cases w with ⟨hc, hd⟩ | ⟨i, hc, hz, hd⟩ | ⟨i, hc, hz, hd⟩
  · simp [hc, hd, illegalWord_of_commandOf_eq_none hc]
  · simp [hc, hd, hz, illegalWord_iff_not_reservedZeros hc]
  · simp [hc, hd, hz, illegalWord_iff_not_reservedZeros hc]

/-- Settles O42: the step receives the word, and the decoder refuses it. -/
theorem illegalWordsAnswerIllegal : Obligations.IllegalWordsAnswerIllegal := by
  unfold Obligations.IllegalWordsAnswerIllegal
  intro s w rest hf hc hw
  obtain ⟨r, hd⟩ := (reservedWordsAreRefusedByName w).1.1 hw
  rcases step_eq s with ⟨q, hq, -⟩ | ⟨-, hn, -⟩ | ⟨v, tail, -, hv, hs⟩
  · rw [hf] at hq; cases hq
  · rw [hc] at hn; cases hn
  · rw [hc] at hv; cases hv
    rcases receive_eq w (s.issue rest) with ⟨i, hi, -⟩ | ⟨-, -, hr⟩
    · rw [hd] at hi; cases hi
    · rw [hs, hr]; rfl

/-! ### The response word -/

/-- Settles O5: the word of a response is the concatenation of its fields. -/
theorem responseWordHasThreeFields : Obligations.ResponseWordHasThreeFields := by
  unfold Obligations.ResponseWordHasThreeFields
  refine ⟨fun s st info result => ⟨responseWord st info result, rfl, ?_⟩, by decide⟩
  have hw : (responseWord st info result).extractLsb' 0 (4 + 4 + 8) = st.code ++ info ++ result :=
    BitVec.extractLsb'_eq_self
  obtain ⟨hhi, hres⟩ := extractLsb'_eq_append_iff.1 hw
  obtain ⟨hst, hinfo⟩ := extractLsb'_eq_append_iff.1 hhi
  exact ⟨hst, hinfo, hres⟩

end Sys2Proof.Machine
end

section
/-!
Proofs about the allocators (40_allocators.md). FALLOC and SPEEK are one search, for the lowest free
index: in a bitmap with a bit for each of 1 .. n-1 an index that is not free is used, so the search
fails exactly when all are used, and all below what it finds are used.
-/

namespace Sys2Proof.Machine

/-! ### First fit in a bitmap of the right length -/

section FirstFit

variable {bits : Bitmap} {n i : Nat}

/-- In range, an index that is not free is used. -/
theorem Bitmap.bit_ne_some_false_iff (hl : bits.length = n - 1) (h1 : 1 ≤ i) (hn : i < n) :
    bits.bit i ≠ some false ↔ (bits.bit i == some true) = true := by
  obtain ⟨u, hu⟩ := Bitmap.bit_exists hl h1 hn
  cases u <;> simp [hu]

/-- The search fails exactly when every index in range is used (R120). -/
theorem Bitmap.firstFree_eq_none_iff_used (hl : bits.length = n - 1) :
    bits.firstFree n = none ↔ ∀ i, i < n → 1 ≤ i → (bits.bit i == some true) = true := by
  rw [Bitmap.firstFree_none]
  constructor
  · exact fun h i hn h1 => (Bitmap.bit_ne_some_false_iff hl h1 hn).1 (h i h1 hn)
  · exact fun h i h1 hn => (Bitmap.bit_ne_some_false_iff hl h1 hn).2 (h i hn h1)

end FirstFit

/-! ### FALLOC, SPEEK and SALLOC -/

section Allocate

variable {s : State} {i : Nat}

/-- FALLOC fails exactly when no frame is free (R121). -/
theorem State.WellShaped.falloc_eq_none_iff (h : s.WellShaped) :
    falloc s = none ↔ s.FramesFull := by
  rw [falloc, Option.map_eq_none_iff]
  exact Bitmap.firstFree_eq_none_iff_used h.fused_length

/-- SPEEK fails exactly when no slot is free (R126). -/
theorem State.WellShaped.speek_eq_none_iff (h : s.WellShaped) : speek s = none ↔ s.SlotsFull :=
  Bitmap.firstFree_eq_none_iff_used h.sused_length

/-- SALLOC fails exactly when SPEEK does (R124, R126). -/
theorem salloc_eq_none_iff : salloc s = none ↔ speek s = none := by
  rw [salloc, Option.map_eq_none_iff]

/-- SALLOC takes the slot that SPEEK finds (R126). -/
theorem salloc_of_speek (h : speek s = some i) : salloc s = some (i, s.putSlot i true) := by
  rw [salloc, h, Option.map_some]

end Allocate

/-- Settles O9, by the search in FUSED and the write of one bit. -/
theorem fallocTakesTheLowestFreeFrame : Obligations.FallocTakesTheLowestFreeFrame := by
  unfold Obligations.FallocTakesTheLowestFreeFrame
  refine fun s h => ⟨h.falloc_eq_none_iff, fun g t hf => ?_⟩
  obtain ⟨h1, hn, hfree, hlow, rfl⟩ := falloc_some hf
  refine ⟨h1, hn, by simp [State.frameUsed, hfree], fun j hj hjg => ?_, fun j => ?_, rfl⟩
  · exact (Bitmap.bit_ne_some_false_iff h.fused_length hj (hjg.trans hn)).1 (hlow j hj hjg)
  · rw [h.frameUsed_putFrame h1 hn, Bool.if_true_left]

/-- Settles O10, by the search in SUSED: SALLOC writes the bit that SPEEK's search finds. -/
theorem sallocTakesTheSlotSpeekFinds : Obligations.SallocTakesTheSlotSpeekFinds := by
  unfold Obligations.SallocTakesTheSlotSpeekFinds
  refine fun s h => ⟨h.speek_eq_none_iff, salloc_eq_none_iff.trans h.speek_eq_none_iff,
    fun i hi => ?_⟩
  obtain ⟨h1, hn, hfree, hlow⟩ := speek_some hi
  refine ⟨h1, hn, by simp [State.slotUsed, hfree], fun j hj hji => ?_,
    s.putSlot i true, salloc_of_speek hi, fun j => ?_, rfl⟩
  · exact (Bitmap.bit_ne_some_false_iff h.sused_length hj (hji.trans hn)).1 (hlow j hj hji)
  · rw [h.slotUsed_putSlot h1 hn, Bool.if_true_left]

/-! ### FRELEASE and SRELEASE -/

/-- FRELEASE of frame 0, of a frame that does not exist or of a free frame (R123, C4). -/
theorem frelease_eq_raised {s : State} {f : Nat}
    (h : f = 0 ∨ s.nframes ≤ f ∨ s.frameUsed f = false) :
    frelease f s = .raised .releaseFreeFrame (s.markFaulted .releaseFreeFrame) := by
  rw [frelease, if_pos h, raise]

/-- SRELEASE of slot 0, of a slot that does not exist or of a free slot (R125, C4). -/
theorem srelease_eq_raised {s : State} {i : Nat}
    (h : i = 0 ∨ s.nslots ≤ i ∨ s.slotUsed i = false) :
    srelease i s = .raised .releaseFreeSlot (s.markFaulted .releaseFreeSlot) := by
  rw [srelease, if_pos h, raise]

/-- Settles O11: the two cases of the guard, the second a write of one bit. -/
theorem freleaseFreesAnAllocatedFrame : Obligations.FreleaseFreesAnAllocatedFrame := by
  unfold Obligations.FreleaseFreesAnAllocatedFrame
  refine fun s f h => ⟨frelease_eq_raised, fun h1 hn hu => ?_⟩
  refine ⟨s.putFrame f false, frelease_eq_ok h1 hn hu, fun i => ?_, rfl⟩
  rw [h.frameUsed_putFrame h1 hn, Bool.if_false_left]

/-- Settles O12: the two cases of the guard, the second a write of one bit. -/
theorem sreleaseFreesAnAllocatedSlot : Obligations.SreleaseFreesAnAllocatedSlot := by
  unfold Obligations.SreleaseFreesAnAllocatedSlot
  refine fun s i h => ⟨srelease_eq_raised, fun h1 hn hu => ?_⟩
  refine ⟨s.putSlot i false, srelease_eq_ok h1 hn hu, fun j => ?_, rfl⟩
  rw [h.slotUsed_putSlot h1 hn, Bool.if_false_left]

end Sys2Proof.Machine
end

section
/-!
Proofs about the eviction queue (41_eviction_queue.md). An allocation leaves a suffix of EQ: an eviction
takes its front and nothing else does. Only the leaf level of a walk appends, and it is the last one; a
path that is Mapped to its end is walked without a write.
-/

namespace Sys2Proof.Machine

variable {s t u : State}

/-! ### QPOP -/

/-- QPOP on an empty EQ answers none (R141). -/
theorem qpop_of_nil (h : s.queue = []) : qpop s = none := by simp [qpop, h]

/-- QPOP takes the oldest reference and leaves the rest (R141). -/
theorem qpop_of_cons {r : Byte} {q : List Byte} (h : s.queue = r :: q) :
    qpop s = some (r, { s with queue := q }) := by simp [qpop, State.dropFront, h]

/-- Settles O13: QPUSH is the append, and QPOP looks at whether EQ has a front. -/
theorem queuePushesBackAndPopsFront : Obligations.QueuePushesBackAndPopsFront := by
  unfold Obligations.QueuePushesBackAndPopsFront
  exact fun s => ⟨fun _ => rfl, qpop_of_nil, fun _ _ => qpop_of_cons⟩

/-! ### What leaves EQ and what joins it -/

/-- ALLOC_EVICT (R192) takes from the front of EQ only. -/
theorem State.WellShaped.allocEvict_queue_suffix (h : s.WellShaped) {g : Nat}
    (ha : allocEvict s = .ok g t) : t.queue <:+ s.queue := by
  rcases allocEvict_ok_cases h ha with hf | ⟨r, q, slot, v, -, -, -, hf⟩
  · obtain ⟨-, -, -, -, rfl⟩ := falloc_some hf
    exact List.suffix_rfl
  · obtain ⟨-, -, -, -, rfl⟩ := falloc_some hf
    exact List.tail_suffix s.queue

/-- BIND_PROC (R231) allocates at most twice and appends nothing. -/
theorem State.WellShaped.bindProc_queue_suffix (h : s.WellShaped) {pid : Nat}
    (hu : s.pdbr pid = 0#8) (he : (bindProc pid s).answer = .next t) : t.queue <:+ s.queue := by
  rcases bindProc_cases h hu with ⟨e, -, hb⟩ | ⟨c, s₁, e, ha, -, -, hb⟩ |
    ⟨c, s₁, r, s₂, ha, hc, ha₂, -, hb⟩
  · rw [hb] at he; cases he
    exact List.suffix_rfl
  · rw [hb] at he; cases he
    exact (h.allocEvict_queue_suffix ha :)
  · rw [hb] at he; cases he
    exact (hc.shaped.allocEvict_queue_suffix ha₂).trans (h.allocEvict_queue_suffix ha)

/-- EQ has lost elements of its front only, and then gained at most one at its back (R142). -/
def State.QueueShifts (s t : State) : Prop :=
  ∃ q l, q <:+ s.queue ∧ l.length ≤ 1 ∧ t.queue = q ++ l

theorem State.QueueShifts.of_suffix (h : t.queue <:+ s.queue) : s.QueueShifts t :=
  ⟨t.queue, [], h, Nat.zero_le 1, (List.append_nil _).symm⟩

/-- More elements may have left before, but none may have joined. -/
theorem State.QueueShifts.after_suffix (h : u.QueueShifts t) (hu : u.queue <:+ s.queue) :
    s.QueueShifts t := by
  obtain ⟨q, l, hq, hl, ht⟩ := h
  exact ⟨q, l, hq.trans hu, hl, ht⟩

/-- A level of the walk that goes on shifts EQ (R201); it appends at the leaf level only. -/
theorem walkLevel_queue (h : s.WellShaped) {lvl : Level} {loc g : Nat}
    (hl : loc < Config.frameBytes * s.nframes) (hw : walkLevel lvl loc s = .ok g t) :
    t.queue <:+ s.queue ∨ (lvl = .table ∧ s.QueueShifts t) := by
  rcases walkLevel_ok_cases h hl hw with ⟨-, rfl⟩ | ⟨-, u, ha, -, hmade⟩
  · exact .inl List.suffix_rfl
  · have hu := h.allocEvict_queue_suffix ha
    rcases hmade with ⟨-, rfl⟩ | ⟨hlvl, rfl⟩ | ⟨hlvl, slot, -, -, rfl⟩
    · exact .inl hu
    · exact .inr ⟨hlvl, u.queue, [BitVec.ofNat 8 loc], hu, le_rfl, rfl⟩
    · exact .inr ⟨hlvl, u.queue, [BitVec.ofNat 8 loc], hu, le_rfl, rfl⟩

/-- The walk (R206) shifts EQ: no level comes after the one that appends. -/
theorem walk_queueShifts {levels : List (Level × BitVec 2)} {f : Nat}
    (hlast : levels.Pairwise fun x _ => x.1 ≠ .table) (h : s.WellShaped) (hf : f < s.nframes)
    (hw : walk levels f s = .next t) : s.QueueShifts t := by
  induction levels generalizing s f with
  | nil => cases hw; exact .of_suffix List.suffix_rfl
  | cons x rest ih =>
    obtain ⟨lvl, idx⟩ := x
    obtain ⟨hx, hrest⟩ := List.pairwise_cons.1 hlast
    rcases walk_cons_cases h hf hw with ⟨g, u, hl, hr, htail⟩ | ⟨e, rfl⟩
    · rcases walkLevel_queue h (entryAddr_inside hf idx) hl with hu | ⟨rfl, hu⟩
      · exact (ih hrest hr.shaped (hr.nframes ▸ hr.inside) htail).after_suffix hu
      · obtain rfl := List.eq_nil_iff_forall_not_mem.2 fun y hy => hx y hy rfl
        cases htail; exact hu
    · exact .of_suffix List.suffix_rfl

/-- What a command other than INIT does to EQ (R142, R144). -/
theorem exec_queue_cases (h : s.WellShaped) {i : Instr} (hi : NotInit i)
    (he : exec i s = .next t) :
    t.queue <:+ s.queue ∨ ((∃ pid va, i = .fault pid va) ∧ s.QueueShifts t) := by
  rcases exec_notInit_cases h hi with ⟨st, b, hx⟩ | ⟨pid, -, -, hu, hx⟩ |
    ⟨pid, va, hfault, hp, hb, hx⟩ | ⟨a, v, -, -, hx⟩
  · rw [hx] at he; cases he
    exact .inl List.suffix_rfl
  · exact .inl (h.bindProc_queue_suffix hu (hx ▸ he))
  · obtain ⟨-, hroot⟩ := h.pdbr_inside hp hb
    have hlast : (decompose va).Pairwise fun x _ => x.1 ≠ .table := by simp [decompose]
    exact .inr ⟨⟨pid, va, hfault⟩, walk_queueShifts hlast h hroot (hx ▸ he)⟩
  · rw [hx] at he; cases he
    exact .inl List.suffix_rfl

/-! ### A path that is Mapped to its end -/

/-- The walk (R206) of a path with no entry that is not Mapped writes nothing but the response: every
level descends, or finds a frame that cannot be followed (R202). -/
theorem walk_of_mapped_path {levels : List (Level × BitVec 2)} {f : Nat} (h : s.WellShaped)
    (hf : f < s.nframes) (hpath : ∀ a, (a, none) ∉ s.hostWalk levels f)
    (hw : walk levels f s = .next t) : ∃ st info b, t = s.respond st info b := by
  induction levels generalizing f with
  | nil => cases hw; exact ⟨_, _, _, rfl⟩
  | cons x rest ih =>
    obtain ⟨lvl, idx⟩ := x
    rcases walk_cons_cases h hf hw with ⟨g, u, hl, hr, htail⟩ | ⟨e, rfl⟩
    · rcases walkLevel_ok_cases h (entryAddr_inside hf idx) hl with ⟨hm, rfl⟩ | ⟨hn, -⟩
      · refine ih hr.inside (fun a ha => hpath a ?_) htail
        simp [State.hostWalk, hm, ha]
      · exact absurd (by simp [State.hostWalk, hn]) (hpath (entryAddr f idx))
    · exact ⟨e, lvl.code, 0x00#8, rfl⟩

/-- Every entry on the path of a translated address is Mapped (R57, R65). -/
theorem State.pathOf_mapped {pid : Nat} {va : Byte} {x : Nat × Nat}
    (h : s.translation pid va = some x) (a : Nat) : (a, none) ∉ s.pathOf pid va := by
  unfold State.translation at h
  split at h
  · next hpath => simp [hpath]
  · cases h

/-- Settles O50: a suffix of EQ is what is left after its front, and a hit walks a Mapped path. -/
theorem queueIsFirstInFirstOut : Obligations.QueueIsFirstInFirstOut := by
  unfold Obligations.QueueIsFirstInFirstOut
  refine ⟨fun s t i hs hi he => ?_, fun s t pid va x hs he hx => ?_⟩
  · rcases exec_queue_cases hs hi he with hq | ⟨hfault, q, l, hq, hl, ht⟩
    · refine ⟨s.queue.length - t.queue.length, [], ?_, Nat.zero_le 1, fun hne => absurd rfl hne⟩
      rw [List.append_nil, ← List.suffix_iff_eq_drop.1 hq]
    · exact ⟨_, l, by rw [ht, ← List.suffix_iff_eq_drop.1 hq], hl, fun _ => hfault⟩
  · rcases exec_notInit_cases (i := .fault pid va) hs trivial with ⟨st, b, hw⟩ | ⟨_, hi, -⟩ |
      ⟨_, _, hi, hp, hb, hw⟩ | ⟨_, _, hi, -⟩
    · rw [hw] at he; cases he; rfl
    · cases hi
    · cases hi
      obtain ⟨-, hroot⟩ := hs.pdbr_inside hp hb
      obtain ⟨st, info, b, rfl⟩ := walk_of_mapped_path hs hroot (State.pathOf_mapped hx) (hw ▸ he)
      rfl
    · cases hi

end Sys2Proof.Machine
end

section
/-!
Proofs about the address split (42_address_decomposition.md): its three indices are the fields of
va & 0xFC, so the offset va[1:0] is lost and nothing else is.
-/

namespace Sys2Proof.Machine

/-- A field of an address, put back where it stood, is the address under the field's mask. -/
theorem setWidth_extractLsb'_shiftLeft (va : Byte) (start len : Nat) :
    (va.extractLsb' start len).setWidth 8 <<< start =
      va &&& (BitVec.allOnes len).setWidth 8 <<< start := by
  ext i hi
  by_cases hs : i < start
  · simp [hs]
  · have hsi : start + (i - start) = i := by omega
    simp [hs, hsi, BitVec.getLsbD_eq_getElem hi, Bool.and_comm]

/-- The three indices stand in the bits that 0xFC keeps, so the split does not see the offset
(R160, R161). -/
theorem decompose_and_0xFC (va : Byte) : decompose (va &&& 0xFC#8) = decompose va := by
  have hfield (start : Nat) (hmask : (0xFC#8).extractLsb' start 2 = BitVec.allOnes 2) :
      (va &&& 0xFC#8).extractLsb' start 2 = va.extractLsb' start 2 := by
    rw [BitVec.extractLsb'_and, hmask, BitVec.and_allOnes]
  simp only [decompose, pdIdx, pmdIdx, ptIdx, hfield 6 rfl, hfield 4 rfl, hfield 2 rfl]

/-- Settles O6: each index put back is the address under that field's mask, and the three masks
together are 0xFC. -/
theorem indicesRoundTripToTheAddress : Obligations.IndicesRoundTripToTheAddress := by
  unfold Obligations.IndicesRoundTripToTheAddress
  refine fun va => ⟨rfl, (pdIdx va).isLt, (pmdIdx va).isLt, (ptIdx va).isLt, ?_⟩
  simp only [pdIdx, pmdIdx, ptIdx, setWidth_extractLsb'_shiftLeft, ← BitVec.and_or_distrib_left]
  rfl

/-- Settles O36: FAULT reads its address through the split alone (R256). -/
theorem offsetBitsDoNotMatter : Obligations.OffsetBitsDoNotMatter := by
  unfold Obligations.OffsetBitsDoNotMatter
  intro s pid va va' hva
  have hsplit : decompose va = decompose va' := by
    rw [← decompose_and_0xFC va, hva, decompose_and_0xFC]
  rw [exec_fault, exec_fault, execFault, execFault, hsplit]

end Sys2Proof.Machine
end

section
/-!
Proofs about the codec of an entry (43_pte_codec.md): CLASSIFY and the two encoders in the byte's
value, from which the round trips follow.
-/

namespace Sys2Proof.Machine

/-! ### CLASSIFY in the byte's value -/

section Classify

variable {b : Byte} {f : BitVec 6} {i : BitVec 7}

/-- Bit 0 of a byte is its parity. -/
theorem getLsbD_zero_eq_decide (b : Byte) : b.getLsbD 0 = decide (b.toNat % 2 = 1) :=
  Nat.testBit_zero b.toNat

/-- Bit 1 of a byte is the parity of its half. -/
theorem getLsbD_one_eq_decide (b : Byte) : b.getLsbD 1 = decide (b.toNat / 2 % 2 = 1) :=
  Nat.testBit_eq_decide_div_mod_eq

/-- The frame bits b[7:2] are the byte's value without its two low bits (R86). -/
theorem eq_frameBits_iff : b.extractLsb' 2 6 = f ↔ f.toNat = b.toNat / 4 := by
  have hval : (b.extractLsb' 2 6).toNat = b.toNat / 4 := by
    have := b.isLt
    rw [BitVec.extractLsb'_toNat, Nat.shiftRight_eq_div_pow]; omega
  rw [← hval, BitVec.toNat_inj, eq_comm]

/-- The slot bits b[7:1] are the byte's value without its low bit (R86). -/
theorem eq_slotBits_iff : b.extractLsb' 1 7 = i ↔ i.toNat = b.toNat / 2 := by
  have hval : (b.extractLsb' 1 7).toNat = b.toNat / 2 := by
    have := b.isLt
    rw [BitVec.extractLsb'_toNat, Nat.shiftRight_eq_div_pow]; omega
  rw [← hval, BitVec.toNat_inj, eq_comm]

/-- The three cases of CLASSIFY, each with its guard on the byte's value (R170). -/
theorem classify_cases (b : Byte) :
    (b.toNat = 0 ∧ classify b = .unmapped) ∨
    (b.toNat % 2 = 1 ∧ classify b = .mapped (b.extractLsb' 2 6)) ∨
    (b.toNat % 2 = 0 ∧ b.toNat ≠ 0 ∧ classify b = .swapped (b.extractLsb' 1 7)) := by
  by_cases h0 : b = 0x00#8
  · exact .inl (by subst h0; exact ⟨rfl, rfl⟩)
  have hne : b.toNat ≠ 0 := fun h => h0 (BitVec.eq_of_toNat_eq h)
  rcases Nat.mod_two_eq_zero_or_one b.toNat with he | ho
  · exact .inr (.inr ⟨he, hne, by rw [classify, if_neg h0, getLsbD_zero_eq_decide]; simp [he]⟩)
  · exact .inr (.inl ⟨ho, by rw [classify, if_neg h0, getLsbD_zero_eq_decide]; simp [ho]⟩)

theorem classify_eq_unmapped_iff : classify b = .unmapped ↔ b.toNat = 0 := by
  rcases classify_cases b with ⟨hb, hc⟩ | ⟨hb, hc⟩ | ⟨-, hb, hc⟩
  · simp [hc, hb]
  · simp [hc]; omega
  · simp [hc, hb]

theorem classify_eq_mapped_iff :
    classify b = .mapped f ↔ b.toNat % 2 = 1 ∧ f.toNat = b.toNat / 4 := by
  rcases classify_cases b with ⟨hb, hc⟩ | ⟨hb, hc⟩ | ⟨hb, -, hc⟩
  · simp [hc, hb]
  · simp [hc, hb, eq_frameBits_iff]
  · simp [hc, hb]

theorem classify_eq_swapped_iff :
    classify b = .swapped i ↔ b.toNat % 2 = 0 ∧ b.toNat ≠ 0 ∧ i.toNat = b.toNat / 2 := by
  rcases classify_cases b with ⟨hb, hc⟩ | ⟨hb, hc⟩ | ⟨hb, hne, hc⟩
  · simp [hc, hb]
  · simp [hc, hb]
  · simp [hc, hb, hne, eq_slotBits_iff]

end Classify

/-- Settles O7, form by form. -/
theorem everyByteHasOneForm : Obligations.EveryByteHasOneForm := by
  unfold Obligations.EveryByteHasOneForm
  exact fun _ => ⟨classify_eq_unmapped_iff, fun _ => classify_eq_mapped_iff,
    fun _ => classify_eq_swapped_iff⟩

/-! ### The encoders in the number of a frame or slot -/

theorem toNat_encMapped {f : Nat} (h : f < 64) : (encMapped f).toNat = 4 * f + 1 := by
  have hor : f <<< 2 ||| 1 = f <<< 2 + 1 :=
    (Nat.shiftLeft_add_eq_or_of_lt (by decide : 1 < 2 ^ 2) f).symm
  rw [encMapped, hor, BitVec.toNat_ofNat, Nat.shiftLeft_eq]; omega

theorem toNat_encSwapped {i : Nat} (h : i < 128) : (encSwapped i).toNat = 2 * i := by
  rw [encSwapped, BitVec.toNat_ofNat, Nat.shiftLeft_eq]; omega

/-! ### Round trips -/

section RoundTrip

theorem classify_encMapped {f : Nat} (h : f < 64) :
    classify (encMapped f) = .mapped (BitVec.ofNat 6 f) := by
  rw [classify_eq_mapped_iff, toNat_encMapped h, BitVec.toNat_ofNat]; omega

theorem classify_encSwapped {i : Nat} (h0 : 1 ≤ i) (h : i < 128) :
    classify (encSwapped i) = .swapped (BitVec.ofNat 7 i) := by
  rw [classify_eq_swapped_iff, toNat_encSwapped h, BitVec.toNat_ofNat]; omega

variable {b : Byte}

/-- A byte that reads as Mapped and has bit 1 clear is the encoding of its frame (R173, R174). -/
theorem encMapped_of_classify {f : BitVec 6} (hc : classify b = .mapped f)
    (h1 : b.getLsbD 1 = false) : encMapped f.toNat = b := by
  obtain ⟨hodd, hf⟩ := classify_eq_mapped_iff.1 hc
  rw [getLsbD_one_eq_decide, decide_eq_false_iff_not] at h1
  apply BitVec.eq_of_toNat_eq
  rw [toNat_encMapped f.isLt]; omega

theorem encSwapped_of_classify {i : BitVec 7} (hc : classify b = .swapped i) :
    encSwapped i.toNat = b := by
  obtain ⟨heven, -, hi⟩ := classify_eq_swapped_iff.1 hc
  apply BitVec.eq_of_toNat_eq
  rw [toNat_encSwapped i.isLt]; omega

end RoundTrip

/-- Settles O8: bit 1 of a canonical byte matters to its Mapped form only. -/
theorem entryCodecRoundTrips : Obligations.EntryCodecRoundTrips := by
  unfold Obligations.EntryCodecRoundTrips
  refine ⟨fun f hf => ⟨classify_encMapped (by omega), fun h => ?_⟩,
    fun i h1 hi => ⟨classify_encSwapped h1 (by omega), fun h => ?_⟩,
    fun b hb => ⟨fun hc => ?unmapped, fun f hc => ?mapped, fun _ => encSwapped_of_classify⟩⟩
  · have hval := toNat_encMapped (f := f) (by omega)
    rw [h, BitVec.toNat_ofNat] at hval; omega
  · have hval := toNat_encSwapped (i := i) (by omega)
    rw [h, BitVec.toNat_ofNat] at hval; omega
  case unmapped => exact BitVec.eq_of_toNat_eq (classify_eq_unmapped_iff.1 hc)
  case mapped =>
    rcases hb with heven | ⟨-, h1⟩
    · rw [getLsbD_zero_eq_decide, decide_eq_false_iff_not] at heven
      exact absurd (classify_eq_mapped_iff.1 hc).1 heven
    · exact encMapped_of_classify hc h1

end Sys2Proof.Machine
end

section
/-!
Proofs about the kinds of frames (44_walker.md R214): what makes a frame a control block, a root or
an intermediate table is a register of a bound pid or a Mapped upper entry, and no command but INIT
rewrites either. So the pinned frames stay pinned, and a machine whose frames are all pinned stays
so.
-/

namespace Sys2Proof.Machine

variable {s t : State} {f : Nat}

/-! ### Kinds that stay -/

/-- Every Mapped entry of a Directory or Middle-Directory still maps the frame it mapped. -/
def State.UpperMapped (s t : State) : Prop :=
  ∀ a f, s.IsUpperEntry a → s.entryFrame a = some f → t.entryFrame a = some f

/-- Every pinned frame keeps its kind (R34 (a) to (c)). -/
structure State.KindsKept (s t : State) : Prop where
  control : ∀ {f}, s.IsControl f → t.IsControl f
  directory : ∀ {f}, s.IsDirectory f → t.IsDirectory f
  middle : ∀ {f}, s.IsMiddle f → t.IsMiddle f
  table : ∀ {f}, s.IsTable f → t.IsTable f

theorem State.KindsKept.pinned (h : s.KindsKept t) (hf : s.IsPinned f) : t.IsPinned f :=
  hf.imp h.control (.imp h.directory (.imp h.middle h.table))

/-- The bindings and the Mapped upper entries decide the kinds. -/
theorem State.Continues.kindsKept (h : s.Continues t) (hs : s.WellShaped) (hm : s.UpperMapped t) :
    s.KindsKept t := by
  obtain ⟨-, hn, -, -, hnpid, -⟩ := h.control
  have hdir : ∀ {f}, s.IsDirectory f → t.IsDirectory f := by
    rintro f ⟨h0, p, hp, rfl⟩
    have hb : s.pdbr p ≠ 0#8 := fun hz => h0 (by rw [hz]; rfl)
    exact ⟨h0, p, hnpid ▸ hp, congrArg (·.pdbr.toNat) (h.bound p hb)⟩
  have hmid : ∀ {f}, s.IsMiddle f → t.IsMiddle f := fun ⟨a, ha, hf, hd⟩ =>
    ⟨a, by rwa [hn], hm a _ (.inl hd) hf, hdir hd⟩
  refine ⟨?_, hdir, hmid, fun ⟨a, ha, hf, hd⟩ => ⟨a, by rwa [hn], hm a _ (.inr hd) hf, hmid hd⟩⟩
  rintro f ⟨h0, p, hp, rfl⟩
  have hb : s.pdbr p ≠ 0#8 := fun hz => h0 (by rw [hs.pcb_unbound hp hz]; rfl)
  exact ⟨h0, p, hnpid ▸ hp, congrArg (·.pcb.toNat) (h.bound p hb)⟩

/-! ### Upper entries that stay -/

/-- BIND_PROC (R231) writes no upper entry: its allocations evict leaves, and the two frames that it
fills hold no entry yet. -/
theorem State.Accounted.bindProc_read_upper (h : s.Accounted []) (hs : s.WellShaped) {pid a : Nat}
    (hu : s.pdbr pid = 0#8) (he : (bindProc pid s).answer = .next t) (ha : s.IsUpperEntry a) :
    t.phys.read a = s.phys.read a := by
  rcases bindProc_cases hs hu with ⟨e, -, hb⟩ | ⟨c, s₁, e, ha₁, -, -, hb⟩ |
    ⟨c, s₁, r, s₂, ha₁, hc, ha₂, hr, hb⟩
  · rw [hb] at he; cases he; rfl
  · rw [hb] at he; cases he
    exact (h.of_allocEvict hs ha₁).read_upper h ha
  · rw [hb] at he; cases he
    have hA₁ := h.of_allocEvict hs ha₁
    have hA₂ := hA₁.accounted.of_allocEvict hc.shaped ha₂
    have hup₁ := (hA₁.tables.upper_iff a).2 ha
    have hup₂ := (hA₂.tables.upper_iff a).2 hup₁
    have hroot := hA₂.accounted.sameEntries_putBytes hr.shaped (g := r) (by simp)
      (bs := [0x00#8, 0x00#8, 0x00#8, 0x00#8]) rfl
    have hcontrol := (hA₂.accounted.putBytes hr.shaped (g := r) (by simp)
      (bs := [0x00#8, 0x00#8, 0x00#8, 0x00#8]) rfl).sameEntries_putBytes hroot.shaped (g := c)
      (by simp) (bs := pcbBytes r) rfl
    exact (hcontrol.entries a (.inl ((hroot.tables.upper_iff a).2 hup₂))).trans <|
      (hroot.entries a (.inl hup₂)).trans <|
        (hA₂.read_upper hA₁.accounted hup₁).trans (hA₁.read_upper h ha)

/-- No command but INIT rewrites a Mapped upper entry, if the host keeps its duty (R314). -/
theorem State.Accounted.exec_upperMapped (h : s.Accounted []) (hs : s.WellShaped) {i : Instr}
    (hi : NotInit i) (hduty : HostDuty s i) (he : exec i s = .next t) : s.UpperMapped t := by
  intro a f ha hf
  rcases exec_notInit_cases hs hi with ⟨st, b, hx⟩ | ⟨pid, -, -, hu, hx⟩ |
    ⟨pid, va, -, hp, hb, hx⟩ | ⟨x, v, rfl, -, hx⟩
  · rw [hx] at he; cases he
    exact hf
  · rw [entryFrame_congr (h.bindProc_read_upper hs hu (hx ▸ he) ha), hf]
  · obtain ⟨hpos, hin⟩ := hs.pdbr_inside hp hb
    obtain ⟨k, l, new, hgrown⟩ := h.pathGrown_walk hs hin ⟨by omega, pid, hp, rfl⟩ (hx ▸ he)
    exact hgrown.entry a f ha hf
  · obtain ⟨hupper, -, -⟩ := hduty
    have hne : a ≠ x := by rintro rfl; exact hupper ha
    rw [hx] at he; cases he
    rw [State.respond_entryFrame, entryFrame_congr (Memory.read_write_other _ hne v), hf]

/-! ### Pinned frames -/

/-- Every command but INIT keeps the kinds of pinned frames, if the host keeps its duty (R214). -/
theorem State.Ownership.exec_kindsKept (h : s.Ownership) (hs : s.WellShaped) {i : Instr}
    (hi : NotInit i) (hduty : HostDuty s i) (he : exec i s = .next t) : s.KindsKept t := by
  obtain ⟨u, hu, hc⟩ := exec_continues hs hi
  rw [he] at hu; cases hu
  exact hc.kindsKept hs ((accounted_nil_iff.2 h).exec_upperMapped hs hi hduty he)

/-- Exhaustion is kept: the pinned frames stay pinned, so they stay allocated, and they are all the
frames there are. -/
theorem State.Exhausted.of_exec (h : s.Exhausted) (hs : s.WellShaped) (ho : s.Ownership) {i : Instr}
    (hi : NotInit i) (hduty : HostDuty s i) (he : exec i s = .next t) : t.Exhausted := by
  have hk := ho.exec_kindsKept hs hi hduty he
  obtain ⟨hn, -, -⟩ := exec_sameConfiguration hi he
  have hpinned : ∀ f, f < t.nframes → 1 ≤ f → t.IsPinned f := fun f hf h1 =>
    hk.pinned (h.pinned f (h.full f (hn ▸ hf) h1))
  refine ⟨fun f hf h1 => (ho.of_exec hs hduty he).pinned_used (hpinned f hf h1), fun f hf => ?_⟩
  obtain ⟨h1, hin⟩ := (exec_wellShaped hs he).frameUsed_inside hf
  exact hpinned f hin h1

/-- Settles O53: the shape and the ownership are kept by every step, and the exhaustion by every
command but INIT. -/
theorem stepKeepsTheExhaustion : Obligations.StepKeepsTheExhaustion := by
  unfold Obligations.StepKeepsTheExhaustion
  intro s t hs ho hx hhost hstep
  refine ⟨stepKeepsTheShape s t hs hstep,
    stepKeepsTheOwnership s t hs ho (fun w rest i hc hd => (hhost w rest i hc hd).2) hstep, ?_⟩
  rcases step_next_cases hstep with rfl | ⟨rest, rfl⟩ | ⟨w, rest, i, hc, hd, he⟩
  · exact hx
  · exact ⟨hx.full, hx.pinned⟩
  · obtain ⟨hi, hduty⟩ := hhost w rest i hc hd
    have hx' : (s.issue rest).Exhausted := ⟨hx.full, hx.pinned⟩
    exact hx'.of_exec (hs.issue rest) (ho.issue rest) hi hduty he

/-- Settles O51: each kind is kept, and a frame that is still pinned is still owned. -/
theorem pinnedFramesStayPinned : Obligations.PinnedFramesStayPinned := by
  unfold Obligations.PinnedFramesStayPinned
  intro s t i f hs ho hi hduty he
  have hk := ho.exec_kindsKept hs hi hduty he
  exact ⟨hk.control, hk.directory, hk.middle, hk.table,
    fun hf => (ho.of_exec hs hduty he).pinned_used (hk.pinned hf)⟩

end Sys2Proof.Machine
end

section
/-!
Proofs about EVICT and ALLOC_EVICT (44_walker.md R192 to R194): what each test of EVICT answers,
what an eviction leaves, and that an allocation which evicts gets the victim's frame.
-/

namespace Sys2Proof.Machine

variable {s t : State} {r : Byte} {q : List Byte} {slot v g : Nat}

/-! ### The tests of EVICT, in the order of R292 -/

theorem evict_of_queue_nil (hq : s.queue = []) : evict s = .err .noVictim s := by simp [evict, hq]

theorem evict_of_no_slot (hq : s.queue = r :: q) (hk : speek s = none) :
    evict s = .err .noSwap s := by simp [evict, hq, hk]

/-- The front of EQ is no Mapped entry, or its frame cannot be followed. -/
theorem evict_of_corrupt (h : s.WellShaped) (hq : s.queue = r :: q) (hk : speek s = some slot)
    (hbad : ∀ v, s.entryFrame r.toNat = some v → validFrame s v = false) :
    evict s = .err .corrupt s := by
  rcases evict_cases h with ⟨hn, -⟩ | ⟨-, hn, -⟩ | ⟨_, _, _, -, -, -, he⟩ |
    ⟨r', q', _, v, hq', -, hr, hv, -⟩
  · rw [hq] at hn; cases hn
  · rw [hk] at hn; cases hn
  · exact he
  · rw [hq] at hq'; cases hq'
    rw [hbad v hr] at hv; cases hv

/-- Every test passes. -/
theorem evict_of_valid (h : s.WellShaped) (hq : s.queue = r :: q) (hk : speek s = some slot)
    (hr : s.entryFrame r.toNat = some v) (hv : validFrame s v = true) :
    evict s = .ok () (s.evicted r slot v) := by
  rcases evict_cases h with ⟨hn, -⟩ | ⟨-, hn, -⟩ | ⟨r', q', _, hq', -, hbad, -⟩ |
    ⟨r', q', slot', v', hq', hk', hr', -, he⟩
  · rw [hq] at hn; cases hn
  · rw [hk] at hn; cases hn
  · rw [hq] at hq'; cases hq'
    rw [hbad v hr] at hv; cases hv
  · rw [hq] at hq'; cases hq'
    rw [hk] at hk'; cases hk'
    rw [hr] at hr'; cases hr'
    exact he

/-- The errors of EVICT, which are those of an allocation and of a walk (R193, R208). -/
def Status.OfWalk (e : Status) : Prop := e = .noVictim ∨ e = .noSwap ∨ e = .corrupt

theorem evict_err (h : s.WellShaped) {e : Status} (he : evict s = .err e t) :
    t = s ∧ Status.OfWalk e := by
  rcases evict_cases h with ⟨-, hx⟩ | ⟨-, -, hx⟩ | ⟨_, _, _, -, -, -, hx⟩ |
    ⟨_, _, _, _, -, -, -, -, hx⟩
  · rw [hx] at he; cases he; exact ⟨rfl, .inl rfl⟩
  · rw [hx] at he; cases he; exact ⟨rfl, .inr (.inl rfl)⟩
  · rw [hx] at he; cases he; exact ⟨rfl, .inr (.inr rfl)⟩
  · rw [hx] at he; cases he

theorem evict_ok (h : s.WellShaped) (he : evict s = .ok () t) :
    ∃ r q slot v, s.queue = r :: q ∧ s.entryFrame r.toNat = some v ∧ validFrame s v = true ∧
      t = s.evicted r slot v := by
  rcases evict_cases h with ⟨-, hx⟩ | ⟨-, -, hx⟩ | ⟨_, _, _, -, -, -, hx⟩ |
    ⟨r, q, slot, v, hq, -, hr, hv, hx⟩
  · rw [hx] at he; cases he
  · rw [hx] at he; cases he
  · rw [hx] at he; cases he
  · rw [hx] at he; cases he; exact ⟨r, q, slot, v, hq, hr, hv, rfl⟩

/-! ### What an eviction leaves -/

/-- The slot that SPEEK found is used (R193). -/
theorem State.WellShaped.slotUsed_evicted (h : s.WellShaped) (hk : speek s = some slot) (i : Nat) :
    (s.evicted r slot v).slotUsed i = (decide (i = slot) || s.slotUsed i) := by
  obtain ⟨h1, hn, -, -⟩ := speek_some hk
  rw [← Bool.if_true_left]
  exact h.slotUsed_putSlot h1 hn true i

/-- The victim's frame is free (R193). -/
theorem State.WellShaped.frameUsed_evicted (h : s.WellShaped) (hv : validFrame s v = true)
    (i : Nat) : (s.evicted r slot v).frameUsed i = (!decide (i = v) && s.frameUsed i) := by
  obtain ⟨h1, hn, -⟩ := validFrame_iff.1 hv
  rw [← Bool.if_false_left]
  exact h.frameUsed_putFrame h1 hn false i

theorem State.phys_evicted (s : State) (r : Byte) (slot v : Nat) :
    (s.evicted r slot v).phys = s.phys.write r.toNat (encSwapped slot) := rfl

/-- Settles O14, test by test; a success writes a byte of each arena and a bit of each bitmap. -/
theorem evictMovesTheOldestLeafOrChangesNothing :
    Obligations.EvictMovesTheOldestLeafOrChangesNothing := by
  unfold Obligations.EvictMovesTheOldestLeafOrChangesNothing
  refine fun s h => ⟨evict_of_queue_nil, fun hq hfull => ?_, fun r q slot hq hk hbad => ?_,
    fun r q slot v hq hk hr h1 hn hu => ?_⟩
  · obtain ⟨r, q, hq⟩ := List.exists_cons_of_ne_nil hq
    exact evict_of_no_slot hq (h.speek_eq_none_iff.2 hfull)
  · exact evict_of_corrupt h hq hk fun v hr =>
      Bool.eq_false_iff.2 (mt validFrame_iff.1 (hbad v hr))
  · have hv := validFrame_iff.2 ⟨h1, hn, hu⟩
    obtain ⟨hs1, hsn, -, -⟩ := speek_some hk
    have hphys : (s.phys.read r.toNat).isSome = true :=
      (h.phys_exists _).2 (h.queue_inside r (by simp [hq]))
    have hswap : (s.swap.read (4 * slot)).isSome = true :=
      (h.swap_exists _).2 (by simp only [Config.frameBytes]; omega)
    refine ⟨s.evicted r slot v, evict_of_valid h hq hk hr hv, congrArg List.tail hq, ?_,
      Memory.read_write_same hphys _, fun a ha => Memory.read_write_other _ ha _,
      Memory.read_write_same hswap _, fun a ha => Memory.read_write_other _ ha _,
      h.slotUsed_evicted hk, h.frameUsed_evicted hv, ⟨rfl, rfl, rfl, rfl, rfl, rfl⟩, rfl, rfl, rfl⟩
    rw [entrySlot_write hphys (s.phys_evicted r slot v), if_pos rfl,
      slot_encSwapped hs1 (lt_of_lt_of_le hsn h.nslots_le)]

/-! ### Allocation -/

theorem allocEvict_of_falloc (hf : falloc s = some (g, t)) : allocEvict s = .ok g t := by
  simp [allocEvict, hf]

theorem allocEvict_of_full (hf : falloc s = none) :
    allocEvict s = (evict s).bind fun _ s => retryAlloc s := by simp [allocEvict, hf]

theorem allocEvict_ok (h : s.WellShaped) (ha : allocEvict s = .ok g t) : s.Allocated g t := by
  rcases allocEvict_cases h with ⟨_, _, hx, hal⟩ | ⟨_, hx⟩
  · rw [ha] at hx; cases hx; exact hal
  · rw [ha] at hx; cases hx

/-- The error of a failed allocation is its eviction's (R192). -/
theorem allocEvict_err (h : s.WellShaped) {e : Status} (ha : allocEvict s = .err e t) :
    t = s ∧ e.OfWalk := by
  cases hf : falloc s with
  | some x => rw [allocEvict_of_falloc hf] at ha; cases ha
  | none =>
    rw [allocEvict_of_full hf] at ha
    cases he : evict s with
    | ok _ u =>
      rw [he, Result.bind_ok, retryAlloc] at ha
      split at ha
      · cases ha
      · cases ha
    | err e' u =>
      rw [he, Result.bind_err] at ha; cases ha
      exact evict_err h he
    | raised r u => rw [he, Result.bind_raised] at ha; cases ha

/-- The retry after an eviction finds the victim's frame, which alone is free (R194). -/
theorem State.WellShaped.falloc_after_evict (h : s.WellShaped) (hfull : falloc s = none)
    (hv : validFrame s v = true) : falloc (s.evicted r slot v) =
      some (v, (s.evicted r slot v).putFrame v true) := by
  obtain ⟨h1, hn, -⟩ := validFrame_iff.1 hv
  cases hf : falloc (s.evicted r slot v) with
  | none =>
    have hused := (h.evicted r slot v).shaped.falloc_eq_none_iff.1 hf v hn h1
    simp [h.frameUsed_evicted hv] at hused
  | some x =>
    obtain ⟨g, t⟩ := x
    obtain rfl := falloc_evicted h1 hfull hf
    obtain ⟨-, -, -, -, rfl⟩ := falloc_some hf
    rfl

/-- Settles O15: the two ways to a frame, and `allocEvict_cases` for the absence of a fault. -/
theorem allocationRetriesWithTheVictimsFrame :
    Obligations.AllocationRetriesWithTheVictimsFrame := by
  unfold Obligations.AllocationRetriesWithTheVictimsFrame
  refine fun s h => ⟨fun g t => allocEvict_of_falloc, fun e t hfull he => ?_,
    fun t hfull he => ?_, fun r t ha => ?_⟩
  · obtain ⟨rfl, -⟩ := evict_err h he
    exact ⟨rfl, by rw [allocEvict_of_full (h.falloc_eq_none_iff.2 hfull), he, Result.bind_err]⟩
  · have hnone := h.falloc_eq_none_iff.2 hfull
    obtain ⟨r, q, slot, v, hq, hr, hv, rfl⟩ := evict_ok h he
    obtain ⟨h1, hn, -⟩ := validFrame_iff.1 hv
    refine ⟨r, v, (s.evicted r slot v).putFrame v true, by rw [hq]; rfl, hr, ?_, rfl,
      fun i hi hi1 => ?_⟩
    · rw [allocEvict_of_full hnone, he, Result.bind_ok, retryAlloc, h.falloc_after_evict hnone hv]
    · rw [(h.evicted r slot v).shaped.frameUsed_putFrame h1 hn, h.frameUsed_evicted hv,
        hfull i hi hi1]
      by_cases hiv : i = v <;> simp [hiv]
  · rcases allocEvict_cases h with ⟨g, u, hx, -⟩ | ⟨e, hx⟩
    · rw [hx] at ha; cases ha
    · rw [hx] at ha; cases ha

end Sys2Proof.Machine
end

section
/-!
Proofs about the walk (44_walker.md R200 to R213) from every well-shaped state: what each entry
makes a level do, the path that the walk follows, and how a walk ends.
-/

namespace Sys2Proof.Machine

variable {s t u : State} {lvl : Level} {idx : BitVec 2} {rest levels : List (Level × BitVec 2)}
  {loc f g slot pid a : Nat} {va : Byte} {e : Status}

/-! ### What an entry makes its level do -/

/-- A Mapped entry (R202). -/
theorem walkLevel_of_entryFrame (h : s.entryFrame loc = some f) :
    walkLevel lvl loc s = descend f s := by
  rw [State.entryFrame_eq, Option.bind_eq_some_iff] at h
  obtain ⟨b, hb, hf⟩ := h
  cases hc : classify b with
  | mapped g => rw [hc] at hf; cases hf; exact walkLevel_mapped hb hc
  | unmapped => rw [hc] at hf; cases hf
  | swapped i => rw [hc] at hf; cases hf

/-- A Swapped entry (R205, R207). -/
theorem walkLevel_of_entrySlot (h : s.entrySlot loc = some slot) :
    walkLevel lvl loc s = restore lvl loc slot s := by
  rw [State.entrySlot_eq, Option.bind_eq_some_iff] at h
  obtain ⟨b, hb, hi⟩ := h
  cases hc : classify b with
  | mapped g => rw [hc] at hi; cases hi
  | unmapped => rw [hc] at hi; cases hi
  | swapped i => rw [hc] at hi; cases hi; exact walkLevel_swapped hb hc

/-- An entry of 0x00 is Unmapped (R203, R204). -/
theorem walkLevel_of_zero (h : s.phys.read loc = some 0x00#8) :
    walkLevel lvl loc s = create lvl loc s := walkLevel_unmapped h rfl

/-- The walk goes on to a frame that can be followed (R202). -/
theorem walkLevel_followed (h : s.entryFrame loc = some g) (hv : validFrame s g = true) :
    walkLevel lvl loc s = .ok g s := by
  rw [walkLevel_of_entryFrame h, descend, if_pos hv]

/-- A Mapped entry whose frame cannot be followed (R202). -/
theorem walkLevel_bad_frame (h : s.entryFrame loc = some g)
    (hv : ¬ (1 ≤ g ∧ g < s.nframes ∧ s.frameUsed g = true)) :
    walkLevel lvl loc s = .err .corrupt s := by
  rw [walkLevel_of_entryFrame h, descend, if_neg (mt validFrame_iff.1 hv)]

/-- A Swapped Directory or Middle-Directory entry (R207). -/
theorem walkLevel_swapped_upper (h : s.entrySlot loc = some slot) (hl : lvl ≠ .table) :
    walkLevel lvl loc s = .err .corrupt s := by
  rw [walkLevel_of_entrySlot h]
  cases lvl with
  | directory => rfl
  | middleDirectory => rfl
  | table => exact absurd rfl hl

/-- A Swapped leaf whose slot is out of range or free (R205). -/
theorem walkLevel_bad_slot (h : s.entrySlot loc = some slot)
    (hv : ¬ (slot < s.nslots ∧ s.slotUsed slot = true)) :
    walkLevel .table loc s = .err .corrupt s := by
  rw [walkLevel_of_entrySlot h, restore, if_neg (mt validSlot_iff.1 hv)]

/-- A Swapped leaf with a used slot (R205). -/
theorem walkLevel_swapIn (h : s.entrySlot loc = some slot) (hv : validSlot s slot = true) :
    walkLevel .table loc s = swapIn loc slot s := by
  rw [walkLevel_of_entrySlot h, restore, if_pos hv]

theorem create_upper (hl : lvl ≠ .table) : create lvl loc s = mapTable loc s := by
  cases lvl with
  | directory => rfl
  | middleDirectory => rfl
  | table => exact absurd rfl hl

/-- Whatever an Unmapped entry needs, it needs an allocation first (R203, R204, R208). -/
theorem create_err (ha : allocEvict s = .err e t) : create lvl loc s = .err e t := by
  cases lvl <;> simp [create, mapTable, mapLeaf, ha]

theorem swapIn_err (ha : allocEvict s = .err e t) : swapIn loc slot s = .err e t := by
  simp [swapIn, ha]

/-- A new table for an Unmapped upper entry (R203). -/
theorem walkLevel_new_table (h : s.WellShaped) (hl : lvl ≠ .table)
    (hz : s.phys.read loc = some 0x00#8) (ha : allocEvict s = .ok g u) :
    walkLevel lvl loc s = .ok g (u.withTable loc g) := by
  have hin := (h.phys_exists loc).1 (by rw [hz]; rfl)
  rw [walkLevel_of_zero hz, create_upper hl]
  rcases mapTable_cases h hin with ⟨g', u', -, ha', hm⟩ | ⟨e, ha', -⟩
  · rw [ha] at ha'; cases ha'; exact hm
  · rw [ha] at ha'; cases ha'

/-- A new data frame for an Unmapped leaf (R204). -/
theorem walkLevel_new_leaf (h : s.WellShaped) (hz : s.phys.read loc = some 0x00#8)
    (ha : allocEvict s = .ok g u) : walkLevel .table loc s = .ok g (u.withLeaf loc g) := by
  have hin := (h.phys_exists loc).1 (by rw [hz]; rfl)
  rw [walkLevel_of_zero hz, create]
  rcases mapLeaf_cases h hin with ⟨g', u', -, ha', hm⟩ | ⟨e, ha', -⟩
  · rw [ha] at ha'; cases ha'; exact hm
  · rw [ha] at ha'; cases ha'

/-- A frame for a Swapped leaf, whose slot is then free (R205, R210). -/
theorem walkLevel_old_leaf (h : s.WellShaped) (hi : s.entrySlot loc = some slot)
    (hv : validSlot s slot = true) (ha : allocEvict s = .ok g u) :
    walkLevel .table loc s = .ok g ((u.withLeaf loc g).putSlot slot false) := by
  rw [walkLevel_swapIn hi hv]
  rcases swapIn_cases h (entrySlot_inside h hi) hv with ⟨g', u', -, ha', hm⟩ | ⟨e, ha', -⟩
  · rw [ha] at ha'; cases ha'; exact hm
  · rw [ha] at ha'; cases ha'

/-! ### The bytes of a new table or leaf -/

/-- Every byte after a frame has been filled and mapped. -/
theorem State.WellShaped.read_filled (h : s.WellShaped) (hg : g < s.nframes)
    (hl : loc < Config.frameBytes * s.nframes) {bs : List Byte} (hb : bs.length = 4) (a : Nat) :
    ((s.putBytes (frameBase g) bs).putPhys loc (encMapped g)).phys.read a =
      if a = loc then some (encMapped g)
      else if frameOf a = g then bs[a - frameBase g]? else s.phys.read a := by
  rw [State.putPhys_phys, Memory.read_write (((h.putBytes _ bs).phys_exists loc).2 hl),
    h.read_putBytes_frame hg hb]

theorem State.WellShaped.read_withTable_eq (h : s.WellShaped) (hg : g < s.nframes)
    (hl : loc < Config.frameBytes * s.nframes) (a : Nat) :
    (s.withTable loc g).phys.read a =
      if a = loc then some (encMapped g) else if frameOf a = g then some 0x00#8
      else s.phys.read a := by
  by_cases ha : a ≠ loc ∧ frameOf a = g
  · rw [if_neg ha.1, if_pos ha.2, h.read_withTable hg ha.2 ha.1]
  · rw [State.withTable, h.read_filled hg hl rfl]
    split
    · rfl
    · next hne => rw [if_neg fun hf => ha ⟨hne, hf⟩, if_neg fun hf => ha ⟨hne, hf⟩]

theorem drawnBytes_getElem? (s : State) {k : Nat} (hk : k < 4) :
    s.drawnBytes[k]? = some (Config.draw (s.draws + k)) := by
  interval_cases k <;> rfl

theorem State.WellShaped.read_withLeaf_eq (h : s.WellShaped) (hg : g < s.nframes)
    (hl : loc < Config.frameBytes * s.nframes) (a : Nat) :
    (s.withLeaf loc g).phys.read a =
      if a = loc then some (encMapped g)
      else if frameOf a = g then some (Config.draw (s.draws + (a - frameBase g)))
      else s.phys.read a := by
  have hr := h.afterDraws.read_filled hg hl (bs := s.drawnBytes) rfl a
  rw [State.withLeaf, State.pushQueue_phys, hr]
  split
  · rfl
  · split
    · next hf =>
      refine drawnBytes_getElem? s ?_
      simp only [frameOf, frameBase, Config.frameBytes] at hf ⊢
      omega
    · rfl

theorem State.WellShaped.withLeaf (h : s.WellShaped) (g : Nat)
    (hl : loc < Config.frameBytes * s.nframes) : (s.withLeaf loc g).WellShaped :=
  ((h.afterDraws.putBytes _ _).putPhys _ _).pushQueue hl

/-! A leaf made for a frame changes PHYS, EQ and the draws alone (R204). -/

@[simp] theorem State.withLeaf_ready (s : State) (loc g : Nat) :
    (s.withLeaf loc g).ready = s.ready := rfl
@[simp] theorem State.withLeaf_nframes (s : State) (loc g : Nat) :
    (s.withLeaf loc g).nframes = s.nframes := rfl
@[simp] theorem State.withLeaf_nslots (s : State) (loc g : Nat) :
    (s.withLeaf loc g).nslots = s.nslots := rfl
@[simp] theorem State.withLeaf_swap (s : State) (loc g : Nat) :
    (s.withLeaf loc g).swap = s.swap := rfl
@[simp] theorem State.withLeaf_fused (s : State) (loc g : Nat) :
    (s.withLeaf loc g).fused = s.fused := rfl
@[simp] theorem State.withLeaf_sused (s : State) (loc g : Nat) :
    (s.withLeaf loc g).sused = s.sused := rfl
@[simp] theorem State.withLeaf_procs (s : State) (loc g : Nat) :
    (s.withLeaf loc g).procs = s.procs := rfl
@[simp] theorem State.withLeaf_faulted (s : State) (loc g : Nat) :
    (s.withLeaf loc g).faulted = s.faulted := rfl
@[simp] theorem State.withLeaf_npid (s : State) (loc g : Nat) :
    (s.withLeaf loc g).npid = s.npid := rfl
@[simp] theorem State.withLeaf_commands (s : State) (loc g : Nat) :
    (s.withLeaf loc g).commands = s.commands := rfl
@[simp] theorem State.withLeaf_queue (s : State) (loc g : Nat) :
    (s.withLeaf loc g).queue = s.queue ++ [BitVec.ofNat 8 loc] := rfl
@[simp] theorem State.withLeaf_draws (s : State) (loc g : Nat) :
    (s.withLeaf loc g).draws = s.draws + 4 := rfl
@[simp] theorem State.withLeaf_slotUsed (s : State) (loc g i : Nat) :
    (s.withLeaf loc g).slotUsed i = s.slotUsed i := rfl

/-- The bytes of a frame (R27). -/
theorem frameOf_byte {k : Nat} (hk : k < 4) : frameOf (4 * g + k) = g := by
  simp only [frameOf, Config.frameBytes]; omega

theorem byte_sub_frameBase (g k : Nat) : 4 * g + k - frameBase g = k := by
  simp [frameBase, Config.frameBytes]

/-- Settles O28: the level's result is the allocation's, with the new table in it. -/
theorem newTablesAreZeroFilledAndNotQueued : Obligations.NewTablesAreZeroFilledAndNotQueued := by
  unfold Obligations.NewTablesAreZeroFilledAndNotQueued
  refine fun s lvl loc h hlvl hz => ⟨fun e u ha => ?_, fun g u ha hne => ?_⟩
  · obtain ⟨rfl, -⟩ := allocEvict_err h ha
    rw [walkLevel_of_zero hz, create_err ha]
  · have hupper : lvl ≠ .table := by rcases hlvl with rfl | rfl <;> nofun
    have hin := (h.phys_exists loc).1 (by rw [hz]; rfl)
    have hal := allocEvict_ok h ha
    have hread := hal.shaped.read_withTable_eq (hal.nframes ▸ hal.inside) (hal.nframes ▸ hin)
    refine ⟨_, walkLevel_new_table h hupper hz ha, by rw [hread, if_pos rfl],
      fun k hk => ?_, fun a ha hf => ?_, rfl⟩
    · rw [hread, if_neg, if_pos (frameOf_byte hk)]
      rintro rfl
      exact hne (frameOf_byte hk)
    · rw [hread, if_neg ha]
      exact if_neg hf

/-! ### The path of a walk -/

theorem walk_cons_ok (h : walkLevel lvl (entryAddr f idx) s = .ok g t) :
    walk ((lvl, idx) :: rest) f s = walk rest g t := by rw [walk, h]

theorem walk_cons_err (h : walkLevel lvl (entryAddr f idx) s = .err e t) :
    walk ((lvl, idx) :: rest) f s = .next (t.respond e lvl.code 0#8) := by rw [walk, h]

/-- The first entry of a host's walk. -/
theorem hostWalk_cons_head {x : Option Nat} {path : List (Nat × Option Nat)}
    (h : s.hostWalk ((lvl, idx) :: rest) f = (a, x) :: path) :
    a = entryAddr f idx ∧ x = s.entryFrame a := by
  rw [State.hostWalk] at h
  cases he : s.entryFrame (entryAddr f idx) with
  | none => simp only [he] at h; cases h; exact ⟨rfl, he.symm⟩
  | some g => simp only [he] at h; cases h; exact ⟨rfl, he.symm⟩

/-- Below a Mapped entry that can be followed the block's walk and the host's go on alike (R65,
R202). -/
theorem walk_below_mapped {path : List (Nat × Option Nat)}
    (h : s.hostWalk ((lvl, idx) :: rest) f = (a, some g) :: path) (hv : validFrame s g = true) :
    walk ((lvl, idx) :: rest) f s = walk rest g s ∧ s.hostWalk rest g = path := by
  obtain ⟨rfl, hg⟩ := hostWalk_cons_head h
  refine ⟨walk_cons_ok (walkLevel_followed hg.symm hv), ?_⟩
  simpa [State.hostWalk, ← hg] using h

/-- The walk of a pid's address stands on the Directory first (R160, R206). -/
theorem State.pathOf_eq (s : State) (pid : Nat) (va : Byte) : s.pathOf pid va = s.hostWalk
    [(.directory, pdIdx va), (.middleDirectory, pmdIdx va), (.table, ptIdx va)]
    (s.pdbr pid).toNat := rfl

/-- A translation is a path of three Mapped entries (R57). -/
theorem State.translation_eq_some_iff : s.translation pid va = some (loc, g) ↔
    ∃ a₀ m a₁ tb, s.pathOf pid va = [(a₀, some m), (a₁, some tb), (loc, some g)] := by
  unfold State.translation
  constructor
  · intro h
    split at h
    · next hp => cases h; exact ⟨_, _, _, _, hp⟩
    · cases h
  · rintro ⟨a₀, m, a₁, tb, hp⟩
    rw [hp]

/-- Settles O26: each of the three levels descends. -/
theorem faultOnAMappedPathAnswersTheFrame : Obligations.FaultOnAMappedPathAnswersTheFrame := by
  unfold Obligations.FaultOnAMappedPathAnswersTheFrame
  intro s pid loc g va hr hp hb htr hvalid
  obtain ⟨a₀, m, a₁, tb, hpath⟩ := State.translation_eq_some_iff.1 htr
  have hv {a f} (ha : (a, some f) ∈ s.pathOf pid va) : validFrame s f = true :=
    validFrame_iff.2 (hvalid a f ha)
  have hm := hv (a := a₀) (f := m) (by simp [hpath])
  have htb := hv (a := a₁) (f := tb) (by simp [hpath])
  have hg := hv (a := loc) (f := g) (by simp [hpath])
  obtain ⟨hw₀, hpath₁⟩ := walk_below_mapped (s.pathOf_eq pid va ▸ hpath) hm
  obtain ⟨hw₁, hpath₂⟩ := walk_below_mapped hpath₁ htb
  obtain ⟨hw₂, -⟩ := walk_below_mapped hpath₂ hg
  rw [exec_fault, execFault_bound hr hp hb, decompose, hw₀, hw₁, hw₂, walk]

/-- Settles O31: the levels above the corrupt entry descend, and its own level fails. -/
theorem faultOnACorruptEntryAnswersItsLevel : Obligations.FaultOnACorruptEntryAnswersItsLevel := by
  unfold Obligations.FaultOnACorruptEntryAnswersItsLevel
  intro s pid va hr hp hb
  rw [exec_fault, execFault_bound hr hp hb, decompose]
  have hupper {lvl : Level} {a : Nat} (hl : lvl ≠ .table)
      (hbad : (∃ f, s.entryFrame a = some f ∧ ¬ (1 ≤ f ∧ f < s.nframes ∧ s.frameUsed f = true)) ∨
        ∃ i, s.entrySlot a = some i) : walkLevel lvl a s = .err .corrupt s := by
    rcases hbad with ⟨f, hf, hv⟩ | ⟨i, hi⟩
    · exact walkLevel_bad_frame hf hv
    · exact walkLevel_swapped_upper hi hl
  refine ⟨fun rest a ⟨x, hpath⟩ hbad => ?_, fun a₀ m a rest ⟨x, hpath⟩ hm1 hmn hmu hbad => ?_,
    fun a₀ m a₁ tb a ⟨x, hpath⟩ hm1 hmn hmu ht1 htn htu hbad => ?_⟩
  · obtain ⟨rfl, -⟩ := hostWalk_cons_head (s.pathOf_eq pid va ▸ hpath)
    exact walk_cons_err (hupper nofun hbad)
  · obtain ⟨hw₀, hpath₁⟩ := walk_below_mapped (s.pathOf_eq pid va ▸ hpath)
      (validFrame_iff.2 ⟨hm1, hmn, hmu⟩)
    obtain ⟨rfl, -⟩ := hostWalk_cons_head hpath₁
    rw [hw₀, walk_cons_err (hupper (lvl := .middleDirectory) nofun hbad)]
  · obtain ⟨hw₀, hpath₁⟩ := walk_below_mapped (s.pathOf_eq pid va ▸ hpath)
      (validFrame_iff.2 ⟨hm1, hmn, hmu⟩)
    obtain ⟨hw₁, hpath₂⟩ := walk_below_mapped hpath₁ (validFrame_iff.2 ⟨ht1, htn, htu⟩)
    obtain ⟨rfl, -⟩ := hostWalk_cons_head hpath₂
    have hleaf : walkLevel .table (entryAddr tb (ptIdx va)) s = .err .corrupt s := by
      rcases hbad with ⟨f, hf, hv⟩ | ⟨i, hi, hv⟩
      · exact walkLevel_bad_frame hf hv
      · exact walkLevel_bad_slot hi hv
    rw [hw₀, hw₁, walk_cons_err hleaf]

end Sys2Proof.Machine
end

section
/-!
Proofs about how a walk ends (44_walker.md R206, R208, R213) and about the path it builds out of
free frames (R203, R204).
-/

namespace Sys2Proof.Machine

variable {s t u : State} {lvl : Level} {idx : BitVec 2} {rest levels : List (Level × BitVec 2)}
  {loc f g : Nat} {va : Byte} {e : Status}

/-! ### The error of a level -/

/-- A level that fails changed nothing (R208); its error is its allocation's or ERR_CORRUPT. -/
theorem walkLevel_err (h : s.WellShaped) (hin : loc < Config.frameBytes * s.nframes)
    (hw : walkLevel lvl loc s = .err e t) : t = s ∧ e.OfWalk := by
  obtain ⟨b, hb⟩ := Option.isSome_iff_exists.1 ((h.phys_exists loc).2 hin)
  have hcorrupt {e : Status} (hx : (Result.err .corrupt s : Result Nat) = .err e t) :
      t = s ∧ e.OfWalk := by cases hx; exact ⟨rfl, .inr (.inr rfl)⟩
  cases hc : classify b with
  | mapped f =>
    rw [walkLevel_mapped hb hc, descend] at hw
    split at hw
    · cases hw
    · exact hcorrupt hw
  | unmapped =>
    rw [walkLevel_unmapped hb hc] at hw
    by_cases hl : lvl = .table
    · rw [hl, create] at hw
      rcases mapLeaf_cases h hin with ⟨_, _, -, -, hm⟩ | ⟨_, ha, hm⟩
      · rw [hm] at hw; cases hw
      · rw [hm] at hw; cases hw; exact allocEvict_err h ha
    · rw [create_upper hl] at hw
      rcases mapTable_cases h hin with ⟨_, _, -, -, hm⟩ | ⟨_, ha, hm⟩
      · rw [hm] at hw; cases hw
      · rw [hm] at hw; cases hw; exact allocEvict_err h ha
  | swapped i =>
    by_cases hl : lvl = .table
    · rw [hl, walkLevel_swapped hb hc, restore] at hw
      split at hw
      · next hv =>
        rcases swapIn_cases h hin hv with ⟨_, _, -, -, hm⟩ | ⟨_, ha, hm⟩
        · rw [hm] at hw; cases hw
        · rw [hm] at hw; cases hw; exact allocEvict_err h ha
      · exact hcorrupt hw
    · have hi : s.entrySlot loc = some i.toNat := by rw [entrySlot_of_read hb, hc]; rfl
      exact hcorrupt ((walkLevel_swapped_upper hi hl).symm.trans hw)

/-- A walk with a level left (R206): it goes on, or it answers that level's error (R208). -/
theorem walk_cons_inv (h : s.WellShaped) (hf : f < s.nframes)
    (hw : walk ((lvl, idx) :: rest) f s = .next t) :
    (∃ g u, walkLevel lvl (entryAddr f idx) s = .ok g u ∧ s.Resolved g u ∧
      walk rest g u = .next t) ∨
    (∃ e, e.OfWalk ∧ t = s.respond e lvl.code 0#8) := by
  have hin := entryAddr_inside hf idx
  rcases walkLevel_cases h lvl hin with ⟨g, u, hx, hr⟩ | ⟨e, hx⟩
  · exact .inl ⟨g, u, hx, hr, (walk_cons_ok hx).symm.trans hw⟩
  · rw [walk_cons_err hx] at hw; cases hw
    obtain ⟨-, he⟩ := walkLevel_err h hin hx
    exact .inr ⟨e, he, rfl⟩

/-! ### Status and queue at the end of a walk -/

/-- The answers of a walk (R206, R208): OK with a frame that exists, or an error with its level. -/
def State.WalkAnswered (n : Nat) (t : State) : Prop :=
  (∃ g, 1 ≤ g ∧ g < n ∧ t.Answered .ok 0#4 (BitVec.ofNat 8 g)) ∨
    ∃ e lvl, Status.OfWalk e ∧ t.Answered e (Level.code lvl) 0#8

/-- EQ has lost at most `n` elements of its front, then gained at most one at its back (R142). -/
def State.QueueMoved (s : State) (n : Nat) (t : State) : Prop :=
  ∃ k l, k ≤ n ∧ l.length ≤ 1 ∧ t.queue = s.queue.drop k ++ l

theorem State.QueueMoved.of_drop {k n : Nat} (hk : k ≤ n) (h : t.queue = s.queue.drop k) :
    s.QueueMoved n t := ⟨k, [], hk, Nat.zero_le 1, by rw [h, List.append_nil]⟩

theorem State.QueueMoved.after_drop {k n : Nat} (h : u.QueueMoved n t) (hk : k ≤ 1)
    (hu : u.queue = s.queue.drop k) : s.QueueMoved (n + 1) t := by
  obtain ⟨k', l, hk', hl, ht⟩ := h
  exact ⟨k + k', l, by omega, hl, by rw [ht, hu, List.drop_drop]⟩

/-- ALLOC_EVICT takes at most one element from EQ (R192). -/
theorem allocEvict_queue_drop (h : s.WellShaped) (ha : allocEvict s = .ok g t) :
    ∃ k, k ≤ 1 ∧ t.queue = s.queue.drop k := by
  rcases allocEvict_ok_cases h ha with hf | ⟨r, q, slot, v, -, -, -, hf⟩
  · obtain ⟨-, -, -, -, rfl⟩ := falloc_some hf
    exact ⟨0, Nat.zero_le 1, rfl⟩
  · obtain ⟨-, -, -, -, rfl⟩ := falloc_some hf
    exact ⟨1, le_rfl, by rw [List.drop_one]; rfl⟩

/-- A level takes at most one element from EQ and appends one at the leaf level only (R203, R204). -/
theorem walkLevel_queueMoved (h : s.WellShaped) (hin : loc < Config.frameBytes * s.nframes)
    (hw : walkLevel lvl loc s = .ok g t) :
    s.QueueMoved 1 t ∧ (lvl ≠ .table → ∃ k, k ≤ 1 ∧ t.queue = s.queue.drop k) := by
  rcases walkLevel_ok_cases h hin hw with ⟨-, rfl⟩ | ⟨-, u, ha, -, hmade⟩
  · exact ⟨.of_drop (Nat.zero_le 1) rfl, fun _ => ⟨0, Nat.zero_le 1, rfl⟩⟩
  · obtain ⟨k, hk, hu⟩ := allocEvict_queue_drop h ha
    rcases hmade with ⟨-, rfl⟩ | ⟨hl, rfl⟩ | ⟨hl, slot, -, -, rfl⟩
    · exact ⟨.of_drop hk hu, fun _ => ⟨k, hk, hu⟩⟩
    · exact ⟨⟨k, _, hk, le_rfl, congrArg (· ++ _) hu⟩, fun hne => absurd hl hne⟩
    · exact ⟨⟨k, _, hk, le_rfl, congrArg (· ++ _) hu⟩, fun hne => absurd hl hne⟩

/-- Every walk ends with one of its answers and takes at most one element a level from EQ (R213). -/
theorem walk_ends (hlast : levels.Pairwise fun x _ => x.1 ≠ .table) (h : s.WellShaped)
    (h1 : 1 ≤ f) (hf : f < s.nframes) (hw : walk levels f s = .next t) :
    t.WalkAnswered s.nframes ∧ s.QueueMoved levels.length t := by
  induction levels generalizing s f with
  | nil => cases hw; exact ⟨.inl ⟨f, h1, hf, rfl⟩, .of_drop le_rfl rfl⟩
  | cons x rest ih =>
    obtain ⟨lvl, idx⟩ := x
    obtain ⟨hx, hrest⟩ := List.pairwise_cons.1 hlast
    rcases walk_cons_inv h hf hw with ⟨g, u, hl, hr, htail⟩ | ⟨e, he, rfl⟩
    · obtain ⟨hans, hq⟩ := ih hrest hr.shaped hr.pos (hr.nframes ▸ hr.inside) htail
      refine ⟨hr.nframes ▸ hans, ?_⟩
      obtain ⟨hmoved, hupper⟩ := walkLevel_queueMoved h (entryAddr_inside hf idx) hl
      by_cases ht : lvl = .table
      · obtain rfl := List.eq_nil_iff_forall_not_mem.2 fun y hy => hx y hy ht
        cases htail; exact hmoved
      · obtain ⟨k, hk, hu⟩ := hupper ht
        exact hq.after_drop hk hu
    · exact ⟨.inr ⟨e, lvl, he, rfl⟩, .of_drop (Nat.zero_le _) rfl⟩

/-- Settles O32: a walk of three levels from a root that exists. -/
theorem faultCompletesWithOneStatus : Obligations.FaultCompletesWithOneStatus := by
  unfold Obligations.FaultCompletesWithOneStatus
  intro s pid va h hr hp hb
  obtain ⟨hpos, hin⟩ := h.pdbr_inside hp hb
  obtain ⟨t, hw, hk⟩ := walk_cases (decompose va) h hin
  have hlast : (decompose va).Pairwise fun x _ => x.1 ≠ .table := by simp [decompose]
  obtain ⟨hans, k, l, hk3, hl, hq⟩ := walk_ends hlast h hpos hin hw
  exact ⟨t, k, l, by rw [exec_fault, execFault_bound hr hp hb, hw], hans, hk3, hl, hq, hk.procs,
    hk.control⟩

/-! ### A path of free frames -/

/-- FALLOC takes the lowest free frame (R121). -/
theorem State.WellShaped.falloc_of_lowest (h : s.WellShaped) (h1 : 1 ≤ f) (hn : f < s.nframes)
    (hfree : s.frameUsed f = false) (hlow : ∀ i, 1 ≤ i → i < f → s.frameUsed i = true) :
    falloc s = some (f, s.putFrame f true) := by
  obtain ⟨hnone, hsome⟩ := fallocTakesTheLowestFreeFrame s h
  cases hf : falloc s with
  | none =>
    rw [hnone.1 hf f hn h1] at hfree; cases hfree
  | some x =>
    obtain ⟨g, t⟩ := x
    obtain ⟨hg1, -, hg, hbelow, -, -⟩ := hsome g t hf
    obtain ⟨-, -, -, -, rfl⟩ := falloc_some hf
    rcases lt_trichotomy g f with hlt | rfl | hlt
    · rw [hlow g hg1 hlt] at hg; cases hg
    · rfl
    · rw [hbelow f h1 hlt] at hfree; cases hfree

/-- The free frame `g` becomes a table that the entry at `loc` maps (R203). -/
def State.newTable (s : State) (loc g : Nat) : State := (s.putFrame g true).withTable loc g

/-- The free frame `g` becomes a data frame that the leaf at `loc` maps (R204). -/
def State.newLeaf (s : State) (loc g : Nat) : State := (s.putFrame g true).withLeaf loc g

/-- SWAP, SUSED, the registers and the control state are as they were. -/
structure State.SameRest (s t : State) : Prop where
  swap : t.swap = s.swap
  sused : t.sused = s.sused
  procs : t.procs = s.procs
  control : s.SameControl t

theorem State.SameRest.trans (h : s.SameRest t) (k : t.SameRest u) : s.SameRest u := by
  obtain ⟨a, b, c, d, e, f⟩ := h.control
  obtain ⟨a', b', c', d', e', f'⟩ := k.control
  exact ⟨k.swap.trans h.swap, k.sused.trans h.sused, k.procs.trans h.procs,
    a'.trans a, b'.trans b, c'.trans c, d'.trans d, e'.trans e, f'.trans f⟩

theorem State.sameRest_newTable (s : State) (loc g : Nat) : s.SameRest (s.newTable loc g) :=
  ⟨rfl, rfl, rfl, rfl, rfl, rfl, rfl, rfl, rfl⟩

theorem State.sameRest_newLeaf (s : State) (loc g : Nat) : s.SameRest (s.newLeaf loc g) := by
  constructor <;> simp [State.newLeaf, State.SameControl]

@[simp] theorem State.newTable_nframes (s : State) (loc g : Nat) :
    (s.newTable loc g).nframes = s.nframes := rfl
@[simp] theorem State.newTable_queue (s : State) (loc g : Nat) :
    (s.newTable loc g).queue = s.queue := rfl
@[simp] theorem State.newTable_draws (s : State) (loc g : Nat) :
    (s.newTable loc g).draws = s.draws := rfl
@[simp] theorem State.newLeaf_queue (s : State) (loc g : Nat) :
    (s.newLeaf loc g).queue = s.queue ++ [BitVec.ofNat 8 loc] := rfl
@[simp] theorem State.newLeaf_draws (s : State) (loc g : Nat) :
    (s.newLeaf loc g).draws = s.draws + 4 := rfl

section Free

variable (h : s.WellShaped)
include h

theorem State.WellShaped.newTable (loc g : Nat) : (s.newTable loc g).WellShaped :=
  ((h.putFrame g true).putBytes _ _).putPhys _ _

theorem State.WellShaped.frameUsed_newTable (h1 : 1 ≤ g) (hg : g < s.nframes) (i : Nat) :
    (s.newTable loc g).frameUsed i = (decide (i = g) || s.frameUsed i) := by
  rw [← Bool.if_true_left]
  exact h.frameUsed_putFrame h1 hg true i

theorem State.WellShaped.frameUsed_newLeaf (h1 : 1 ≤ g) (hg : g < s.nframes) (i : Nat) :
    (s.newLeaf loc g).frameUsed i = (decide (i = g) || s.frameUsed i) := by
  rw [← Bool.if_true_left]
  exact h.frameUsed_putFrame h1 hg true i

theorem State.WellShaped.read_newTable (hg : g < s.nframes)
    (hl : loc < Config.frameBytes * s.nframes) (a : Nat) :
    (s.newTable loc g).phys.read a =
      if a = loc then some (encMapped g) else if frameOf a = g then some 0x00#8
      else s.phys.read a := (h.putFrame g true).read_withTable_eq hg hl a

theorem State.WellShaped.read_newLeaf (hg : g < s.nframes)
    (hl : loc < Config.frameBytes * s.nframes) (a : Nat) :
    (s.newLeaf loc g).phys.read a =
      if a = loc then some (encMapped g)
      else if frameOf a = g then some (Config.draw (s.draws + (a - frameBase g)))
      else s.phys.read a := (h.putFrame g true).read_withLeaf_eq hg hl a

/-- The lowest free frame is what an empty upper entry gets (R203). -/
theorem State.WellShaped.walk_newTable (hl : lvl ≠ .table)
    (hz : s.phys.read (entryAddr f idx) = some 0x00#8) (h1 : 1 ≤ g) (hn : g < s.nframes)
    (hfree : s.frameUsed g = false) (hlow : ∀ i, 1 ≤ i → i < g → s.frameUsed i = true) :
    walk ((lvl, idx) :: rest) f s = walk rest g (s.newTable (entryAddr f idx) g) :=
  walk_cons_ok (walkLevel_new_table h hl hz
    (allocEvict_of_falloc (h.falloc_of_lowest h1 hn hfree hlow)))

/-- And what an empty leaf gets (R204). -/
theorem State.WellShaped.walk_newLeaf (hz : s.phys.read (entryAddr f idx) = some 0x00#8)
    (h1 : 1 ≤ g) (hn : g < s.nframes) (hfree : s.frameUsed g = false)
    (hlow : ∀ i, 1 ≤ i → i < g → s.frameUsed i = true) :
    walk [(.table, idx)] f s = .next ((s.newLeaf (entryAddr f idx) g).respond .ok 0#4
      (BitVec.ofNat 8 g)) := by
  rw [walk_cons_ok (walkLevel_new_leaf h hz
    (allocEvict_of_falloc (h.falloc_of_lowest h1 hn hfree hlow))), walk]
  rfl

/-- An entry of a new table is Unmapped, where the table is not mapped from inside itself (R191). -/
theorem State.WellShaped.read_newTable_entry (hg : g < s.nframes) (hf : f < s.nframes)
    (hne : f ≠ g) (i j : BitVec 2) :
    (s.newTable (entryAddr f i) g).phys.read (entryAddr g j) = some 0x00#8 := by
  rw [h.read_newTable hg (entryAddr_inside hf i), if_neg, if_pos (frameOf_entryAddr g j)]
  intro he
  have hframe := congrArg frameOf he
  rw [frameOf_entryAddr, frameOf_entryAddr] at hframe
  exact hne hframe.symm

end Free

/-- Three free frames have become a path below the table frame `t` (R203, R204). -/
def State.newPath (s : State) (t : Nat) (va : Byte) (f₀ f₁ f₂ : Nat) : State :=
  ((s.newTable (entryAddr t (pdIdx va)) f₀).newTable (entryAddr f₀ (pmdIdx va)) f₁).newLeaf
    (entryAddr f₁ (ptIdx va)) f₂

theorem State.sameRest_newPath (s : State) (t : Nat) (va : Byte) (f₀ f₁ f₂ : Nat) :
    s.SameRest (s.newPath t va f₀ f₁ f₂) :=
  ((s.sameRest_newTable _ _).trans (State.sameRest_newTable _ _ _)).trans
    (State.sameRest_newLeaf _ _ _)

section Path

variable {r f₀ f₁ f₂ : Nat} (h : s.WellShaped) (h01 : f₀ < f₁) (h12 : f₁ < f₂) (h2 : f₂ < s.nframes)
include h h01 h12 h2

theorem State.WellShaped.frameUsed_newPath (h0 : 1 ≤ f₀) (i : Nat) :
    (s.newPath r va f₀ f₁ f₂).frameUsed i =
      (decide (i = f₀) || decide (i = f₁) || decide (i = f₂) || s.frameUsed i) := by
  have hs₁ := h.newTable (entryAddr r (pdIdx va)) f₀
  have hs₂ := hs₁.newTable (entryAddr f₀ (pmdIdx va)) f₁
  rw [State.newPath, hs₂.frameUsed_newLeaf (by omega) (by simpa using h2),
    hs₁.frameUsed_newTable (by omega) (by simpa using h12.trans h2),
    h.frameUsed_newTable h0 ((h01.trans h12).trans h2)]
  ac_rfl

variable (hr : r < s.nframes)
include hr

/-- Every byte after the path has been made, the last write first. -/
theorem State.WellShaped.read_newPath (a : Nat) : (s.newPath r va f₀ f₁ f₂).phys.read a =
    if a = 4 * f₁ + (ptIdx va).toNat then some (encMapped f₂)
    else if a / 4 = f₂ then some (Config.draw (s.draws + (a - 4 * f₂)))
    else if a = 4 * f₀ + (pmdIdx va).toNat then some (encMapped f₁)
    else if a / 4 = f₁ then some 0x00#8
    else if a = entryAddr r (pdIdx va) then some (encMapped f₀)
    else if a / 4 = f₀ then some 0x00#8
    else s.phys.read a := by
  have hs₁ := h.newTable (entryAddr r (pdIdx va)) f₀
  have hs₂ := hs₁.newTable (entryAddr f₀ (pmdIdx va)) f₁
  have hn₁ : f₁ < s.nframes := h12.trans h2
  have hn₀ : f₀ < s.nframes := h01.trans hn₁
  rw [State.newPath, hs₂.read_newLeaf (by simpa using h2) (entryAddr_inside (by simpa using hn₁) _),
    hs₁.read_newTable (by simpa using hn₁) (entryAddr_inside (by simpa using hn₀) _),
    h.read_newTable hn₀ (entryAddr_inside hr _), State.newTable_draws, State.newTable_draws]
  rfl

/-- The walk from a table frame in use makes the path, where its three frames are the lowest free
ones. -/
theorem State.WellShaped.walk_newPath (h0 : 1 ≤ f₀) (hroot : s.frameUsed r = true)
    (hz : s.phys.read (entryAddr r (pdIdx va)) = some 0x00#8) (hfree₀ : s.frameUsed f₀ = false)
    (hfree₁ : s.frameUsed f₁ = false) (hfree₂ : s.frameUsed f₂ = false)
    (hlow : ∀ i, 1 ≤ i → i < f₂ → i ≠ f₀ → i ≠ f₁ → s.frameUsed i = true) :
    walk (decompose va) r s =
      .next ((s.newPath r va f₀ f₁ f₂).respond .ok 0#4 (BitVec.ofNat 8 f₂)) := by
  have hn₁ : f₁ < s.nframes := h12.trans h2
  have hn₀ : f₀ < s.nframes := h01.trans hn₁
  have hne : r ≠ f₀ := by rintro rfl; rw [hroot] at hfree₀; cases hfree₀
  have hs₁ := h.newTable (entryAddr r (pdIdx va)) f₀
  have hs₂ := hs₁.newTable (entryAddr f₀ (pmdIdx va)) f₁
  have hused₁ := h.frameUsed_newTable (loc := entryAddr r (pdIdx va)) h0 hn₀
  have hused₂ := hs₁.frameUsed_newTable (loc := entryAddr f₀ (pmdIdx va)) (h0.trans h01.le) hn₁
  have hlow₁ : ∀ i, 1 ≤ i → i < f₁ →
      (s.newTable (entryAddr r (pdIdx va)) f₀).frameUsed i = true := fun i hi hlt => by
    by_cases hi₀ : i = f₀
    · simp [hused₁, hi₀]
    · simp [hused₁, hlow i hi (hlt.trans h12) hi₀ hlt.ne]
  have hlow₂ : ∀ i, 1 ≤ i → i < f₂ → ((s.newTable (entryAddr r (pdIdx va)) f₀).newTable
      (entryAddr f₀ (pmdIdx va)) f₁).frameUsed i = true := fun i hi hlt => by
    by_cases hi₁ : i = f₁
    · simp [hused₂, hi₁]
    · by_cases hi₀ : i = f₀
      · simp [hused₂, hused₁, hi₀]
      · simp [hused₂, hused₁, hlow i hi hlt hi₀ hi₁]
  rw [decompose,
    h.walk_newTable (lvl := .directory) nofun hz h0 hn₀ hfree₀ fun i hi hlt =>
      hlow i hi (hlt.trans (h01.trans h12)) hlt.ne (hlt.trans h01).ne,
    hs₁.walk_newTable (lvl := .middleDirectory) nofun (h.read_newTable_entry hn₀ hr hne _ _)
      (h0.trans h01.le) hn₁ (by simp [hused₁, hfree₁, h01.ne']) hlow₁,
    hs₂.walk_newLeaf (hs₁.read_newTable_entry hn₁ hn₀ h01.ne _ _) (h0.trans (h01.trans h12).le)
      (by simpa using h2)
      (by simp [hused₂, hused₁, hfree₂, h12.ne', (h01.trans h12).ne']) hlow₂]
  rfl

end Path

/-- Settles O27: the walk makes the path of the three lowest free frames; what follows reads it. -/
theorem faultBuildsAWholePath : Obligations.FaultBuildsAWholePath := by
  unfold Obligations.FaultBuildsAWholePath
  intro s pid f₀ f₁ f₂ va h hr hp hb hroot hz h0 h01 h12 h2 hfree₀ hfree₁ hfree₂ hlow
  obtain ⟨-, hin⟩ := h.pdbr_inside hp hb
  have hne {f : Nat} (hf : s.frameUsed f = false) : (s.pdbr pid).toNat ≠ f := by
    rintro rfl; rw [hroot] at hf; cases hf
  have hr₀ := hne hfree₀
  have hr₁ := hne hfree₁
  have hr₂ := hne hfree₂
  have hw := h.walk_newPath h01 h12 h2 hin h0 hroot hz hfree₀ hfree₁ hfree₂ hlow
  have hread := h.read_newPath (va := va) h01 h12 h2 hin
  have hpd : entryAddr (s.pdbr pid).toNat (pdIdx va) / 4 = (s.pdbr pid).toNat :=
    frameOf_entryAddr _ _
  have hpm := (pmdIdx va).isLt
  have hpt := (ptIdx va).isLt
  have hrest := s.sameRest_newPath (s.pdbr pid).toNat va f₀ f₁ f₂
  refine ⟨_, (execFault_bound hr hp hb).trans hw, State.respond_response _ _ _ _, ?_,
    fun k hk => ?_, fun k hk => ?_, fun k hk => ?_, fun a ha ha₀ ha₁ ha₂ => ?_, ?queue,
    fun i => ?used, ?draws, hrest.swap, hrest.sused, hrest.procs,
    hrest.control⟩
  case used => rw [State.respond_frameUsed, h.frameUsed_newPath h01 h12 h2 h0]
  case queue => simp [State.newPath]
  case draws => simp [State.newPath]
  · rw [State.respond_phys, hread, if_neg (by omega), if_neg (by omega), if_neg (by omega),
      if_neg (by omega), if_pos rfl]
  · rw [State.respond_phys, hread, if_neg (by omega), if_neg (by omega)]
    by_cases hi : k = (pmdIdx va).toNat
    · rw [if_pos (by omega), if_pos hi]
    · rw [if_neg (by omega), if_neg (by omega), if_neg (by omega), if_pos (by omega), if_neg hi]
  · rw [State.respond_phys, hread]
    by_cases hi : k = (ptIdx va).toNat
    · rw [if_pos (by omega), if_pos hi]
    · rw [if_neg (by omega), if_neg (by omega), if_neg (by omega), if_pos (by omega), if_neg hi]
  · rw [State.respond_phys, hread, if_neg (by omega), if_pos (by omega), Nat.add_sub_cancel_left]
  · rw [State.respond_phys, hread, if_neg (by omega), if_neg ha₂, if_neg (by omega), if_neg ha₁,
      if_neg ha, if_neg ha₀]

end Sys2Proof.Machine
end

section
/-!
Proofs about FAULT under the invariants of R35 (44_walker.md R204, R205, R209, R213, R214): what its
path stands on can be followed, a leaf gets its frame, a success leaves the translation, and a
machine whose frames are all pinned answers ERR_NO_VICTIM.
-/

namespace Sys2Proof.Machine

variable {s t u : State} {lvl : Level} {idx : BitVec 2} {rest : List (Level × BitVec 2)}
  {loc f g r slot pid a₀ a₁ m tb : Nat} {va b : Byte} {held : List Nat}

/-! ### The path stands on frames that can be followed -/

/-- Whatever is owned can be followed (I-2). -/
theorem State.Ownership.owned_valid (h : s.Ownership) (hs : s.WellShaped) {o : Owner}
    (ho : s.Owns o f) : validFrame s f = true := by
  have hu := h.owned_allocated o f ho
  obtain ⟨h1, hn⟩ := hs.frameUsed_inside hu
  exact validFrame_iff.2 ⟨h1, hn, hu⟩

/-- The root of a bound pid is a Directory (R34). -/
theorem State.isDirectory_pdbr (hp : pid < s.npid) (hb : s.pdbr pid ≠ 0#8) :
    s.IsDirectory (s.pdbr pid).toNat :=
  ⟨fun h => hb (BitVec.eq_of_toNat_eq h), pid, hp, rfl⟩

/-- A path through two Mapped entries goes through a Middle-Directory and a Table, and the walk goes
on in that Table (R206). -/
theorem State.Ownership.path_to_table (h : s.Ownership) (hs : s.WellShaped) (hp : pid < s.npid)
    (hb : s.pdbr pid ≠ 0#8) {path : List (Nat × Option Nat)}
    (hpath : s.pathOf pid va = (a₀, some m) :: (a₁, some tb) :: path) :
    s.IsMiddle m ∧ s.IsTable tb ∧
      walk (decompose va) (s.pdbr pid).toNat s = walk [(.table, ptIdx va)] tb s ∧
      s.hostWalk [(.table, ptIdx va)] tb = path := by
  have hpath₀ := s.pathOf_eq pid va ▸ hpath
  obtain ⟨rfl, hm⟩ := hostWalk_cons_head hpath₀
  have hmid : s.IsMiddle m := ⟨_, entryFrame_inside hs hm.symm, hm.symm, by
    rw [frameOf_entryAddr]; exact s.isDirectory_pdbr hp hb⟩
  obtain ⟨a, ha, -⟩ := hmid.owned
  obtain ⟨hw₀, hpath₁⟩ := walk_below_mapped hpath₀ (h.owned_valid hs ha)
  obtain ⟨rfl, ht⟩ := hostWalk_cons_head hpath₁
  have htab : s.IsTable tb := ⟨_, entryFrame_inside hs ht.symm, ht.symm, by
    rwa [frameOf_entryAddr]⟩
  obtain ⟨a, ha, -⟩ := htab.owned
  obtain ⟨hw₁, hpath₂⟩ := walk_below_mapped hpath₁ (h.owned_valid hs ha)
  exact ⟨hmid, htab, hw₀.trans hw₁, hpath₂⟩

/-- Every frame on a translated address's path can be followed. -/
theorem State.Ownership.path_valid (h : s.Ownership) (hs : s.WellShaped) (hp : pid < s.npid)
    (hb : s.pdbr pid ≠ 0#8) (htr : s.translation pid va = some (loc, g)) {a : Nat}
    (ha : (a, some f) ∈ s.pathOf pid va) : validFrame s f = true := by
  obtain ⟨a₀, m, a₁, tb, hpath⟩ := State.translation_eq_some_iff.1 htr
  obtain ⟨hmid, htab, -, hleaf⟩ := h.path_to_table hs hp hb hpath
  obtain ⟨rfl, hg⟩ := hostWalk_cons_head hleaf
  rw [hpath] at ha
  simp only [List.mem_cons, Prod.mk.injEq, Option.some.injEq, List.not_mem_nil, or_false] at ha
  rcases ha with ⟨-, rfl⟩ | ⟨-, rfl⟩ | ⟨-, rfl⟩
  · obtain ⟨b, ho, -⟩ := hmid.owned; exact h.owned_valid hs ho
  · obtain ⟨b, ho, -⟩ := htab.owned; exact h.owned_valid hs ho
  · exact h.owned_valid hs (o := .entry (entryAddr tb (ptIdx va)))
      ⟨.inr (by rwa [State.IsLeafEntry, frameOf_entryAddr]), hg.symm⟩

/-! ### A leaf gets its frame -/

/-- The bytes after a leaf has been given an allocated frame: the leaf is outside that frame, which
was free or the victim's (R204, R210). -/
theorem State.AllocatedFor.read_withLeaf (hA : s.AllocatedFor [] g u) (hl : s.IsLeafEntry loc)
    (hin : loc < Config.frameBytes * s.nframes) :
    (u.withLeaf loc g).phys.read loc = some (encMapped g) ∧
    (∀ k, k < 4 → (u.withLeaf loc g).phys.read (4 * g + k) = some (Config.draw (s.draws + k))) ∧
    ∀ a, a ≠ loc → a / 4 ≠ g → (u.withLeaf loc g).phys.read a = u.phys.read a := by
  have hread := hA.shaped.read_withLeaf_eq (hA.nframes ▸ hA.inside) (hA.nframes ▸ hin)
  have hout : frameOf loc ≠ g := fun he => hA.accounted.frames.held_no_entries
    (he ▸ List.mem_cons_self) (.inr ((hA.tables.leaf_iff loc).2 hl))
  refine ⟨by rw [hread, if_pos rfl], fun k hk => ?_, fun a ha hf => ?_⟩
  · rw [hread, if_neg, if_pos (frameOf_byte hk), byte_sub_frameBase, hA.draws]
    rintro rfl
    exact hout (frameOf_byte hk)
  · rw [hread, if_neg ha]
    exact if_neg hf

/-- Settles O29: under two Mapped entries FAULT is the leaf level of its walk. -/
theorem faultMapsAnEmptyLeaf : Obligations.FaultMapsAnEmptyLeaf := by
  unfold Obligations.FaultMapsAnEmptyLeaf
  intro s pid a₀ a₁ loc m tb va hs ho hr hp hb hpath hz
  obtain ⟨-, htab, hw, hpath₂⟩ := ho.path_to_table hs hp hb hpath
  obtain ⟨rfl, -⟩ := hostWalk_cons_head hpath₂
  have hleaf : s.IsLeafEntry (entryAddr tb (ptIdx va)) := by
    rwa [State.IsLeafEntry, frameOf_entryAddr]
  rw [exec_fault, execFault_bound hr hp hb, hw]
  refine ⟨fun e u ha => ?_, fun g u ha => ?_⟩
  · obtain ⟨rfl, -⟩ := allocEvict_err hs ha
    exact walk_cons_err ((walkLevel_of_zero hz).trans (create_err ha))
  · have hA := (accounted_nil_iff.2 ho).of_allocEvict hs ha
    obtain ⟨hmap, hdata, hother⟩ := hA.read_withLeaf hleaf ((hs.phys_exists _).1 (by rw [hz]; rfl))
    refine ⟨(u.withLeaf (entryAddr tb (ptIdx va)) g).respond .ok 0#4 (BitVec.ofNat 8 g),
      walk_cons_ok (walkLevel_new_leaf hs hz ha), rfl, hmap, hdata, hother, ?_⟩
    simpa [State.SameControl, hA.draws, hA.procs] using hA.control

/-- Settles O30: as for an empty leaf, with a slot that the allocation could not take. -/
theorem faultSwapsALeafBackIn : Obligations.FaultSwapsALeafBackIn := by
  unfold Obligations.FaultSwapsALeafBackIn
  intro s pid a₀ a₁ loc m tb slot va hs ho hr hp hb hpath hi
  obtain ⟨-, htab, hw, hpath₂⟩ := ho.path_to_table hs hp hb hpath
  obtain ⟨rfl, -⟩ := hostWalk_cons_head hpath₂
  have hleaf : s.IsLeafEntry (entryAddr tb (ptIdx va)) := by
    rwa [State.IsLeafEntry, frameOf_entryAddr]
  have hused := ho.swapped_used _ slot hleaf hi
  obtain ⟨h1, hn⟩ := used_inside hs.sused_length hused
  have hv := validSlot_iff.2 ⟨hn, hused⟩
  rw [exec_fault, execFault_bound hr hp hb, hw]
  refine ⟨fun e u ha => ?_, fun g u ha => ?_⟩
  · obtain ⟨rfl, -⟩ := allocEvict_err hs ha
    exact walk_cons_err ((walkLevel_swapIn hi hv).trans (swapIn_err ha))
  · have hA := (accounted_nil_iff.2 ho).of_allocEvict hs ha
    obtain ⟨hmap, hdata, hother⟩ := hA.read_withLeaf hleaf (entrySlot_inside hs hi)
    obtain ⟨-, -, hns, -⟩ := hA.control
    refine ⟨((u.withLeaf (entryAddr tb (ptIdx va)) g).putSlot slot false).respond .ok 0#4
      (BitVec.ofNat 8 g), walk_cons_ok (walkLevel_old_leaf hs hi hv ha), rfl, hmap, hdata, hother,
      fun i => ?_, ?_⟩
    · have hshape := hA.shaped.withLeaf g (hA.nframes ▸ entrySlot_inside hs hi)
      rw [State.respond_slotUsed, hshape.slotUsed_putSlot h1 (by simpa [hns] using hn),
        State.withLeaf_slotUsed, Bool.if_false_left]
    · simpa [State.SameControl, hA.draws, hA.procs] using hA.control

/-! ### A FAULT that answers OK -/

/-- Only OK has the code of OK (R97). -/
theorem Status.code_eq_ok_iff {st : Status} : st.code = Status.ok.code ↔ st = .ok := by
  cases st <;> decide

/-- A response that reads as OK was given as OK, with that result (R96). -/
theorem State.answered_ok_of_respond {st : Status} {info : BitVec 4} {b' : Byte}
    (h : (s.respond st info b').Answered .ok 0#4 b) : st = .ok ∧ b' = b := by
  have hword : st.code ++ info ++ b' = Status.ok.code ++ 0#4 ++ b := Option.some.inj h
  simp only [append_eq_append_iff, Status.code_eq_ok_iff] at hword
  obtain ⟨⟨hst, -⟩, hb⟩ := hword
  exact ⟨hst, hb⟩

/-- Answering a second time with the same word changes nothing. -/
theorem State.respond_of_answered {st : Status} {info : BitVec 4} (h : t.Answered st info b) :
    t.respond st info b = t := by
  rw [State.respond, ← h]

/-- A FAULT that answers OK is a walk from the root of a bound pid (R256). -/
theorem walk_of_exec_fault_ok (he : exec (.fault pid va) s = .next t) (hok : t.Answered .ok 0#4 b) :
    s.ready = true ∧ pid < s.npid ∧ s.pdbr pid ≠ 0#8 ∧
      walk (decompose va) (s.pdbr pid).toNat s = .next t := by
  have hrefused {st : Status} (hst : st ≠ .ok)
      (hx : exec (.fault pid va) s = .next (s.respond st 0#4 0#8)) : False := by
    rw [hx] at he; cases he
    exact hst (State.answered_ok_of_respond hok).1
  cases hr : s.ready with
  | false => exact (hrefused (st := .notInit) nofun (exec_not_ready hr trivial)).elim
  | true =>
    by_cases hp : pid < s.npid
    · by_cases hb : s.pdbr pid = 0#8
      · refine (hrefused (st := .notBound) nofun ?_).elim
        rw [exec_fault, execFault, whenReady_ready hr, if_neg (by omega), if_pos hb, failWith]
      · exact ⟨rfl, hp, hb, (execFault_bound hr hp hb).symm.trans he⟩
    · refine (hrefused (st := .badPid) nofun ?_).elim
      rw [exec_fault, execFault, whenReady_ready hr, if_pos (by omega), failWith]

/-- A level of the walk that goes on leaves its entry Mapped to where it goes, and the Mapped
entries above it as they were (R202 to R205). -/
theorem State.Accounted.walkLevel_maps (h : s.Accounted []) (hs : s.WellShaped)
    (hin : loc < Config.frameBytes * s.nframes) (hk : s.Kept t)
    (hw : walkLevel lvl loc s = .ok g t) : s.UpperKept t ∧ t.entryFrame loc = some g := by
  rcases walkLevel_ok_cases hs hin hw with ⟨hm, rfl⟩ | ⟨hn, u, ha, hal, hmade⟩
  · exact ⟨.refl hs, hm⟩
  · have hgn := hal.nframes ▸ hal.inside
    have hln := hal.nframes ▸ hin
    have hfill : u.Fills loc g t := by
      rcases hmade with ⟨-, rfl⟩ | ⟨-, rfl⟩ | ⟨-, slot, -, -, rfl⟩
      · exact hal.shaped.fills_withTable hgn hln
      · exact hal.shaped.fills_withLeaf hgn hln
      · have hleaf := hal.shaped.fills_withLeaf hgn hln
        exact ⟨hleaf.maps, hleaf.read, hleaf.fused, hleaf.swap⟩
    exact ⟨(h.of_allocEvict hs ha).upperKept h hk hn hfill, hfill.maps⟩

/-- The first level of a walk that answers OK, with all that the levels below it need (R206). -/
theorem State.Accounted.walk_ok_cons (h : s.Accounted []) (hs : s.WellShaped) (hf : f < s.nframes)
    (ha : s.AtLevel lvl f) (hw : walk ((lvl, idx) :: rest) f s = .next t)
    (hok : t.Answered .ok 0#4 b) :
    ∃ g u, u.Accounted [] ∧ u.WellShaped ∧ g < u.nframes ∧ u.Below lvl g ∧ s.UpperKept u ∧
      u.entryFrame (entryAddr f idx) = some g ∧ walk rest g u = .next t := by
  have hin := entryAddr_inside hf idx
  rcases walk_cons_inv hs hf hw with ⟨g, u, hx, hr, htail⟩ | ⟨e, he, rfl⟩
  · obtain ⟨hacc, hbelow⟩ := h.of_walkLevel hs (by rwa [frameOf_entryAddr]) hin hx
    obtain ⟨hk, hm⟩ := h.walkLevel_maps hs hin hr.toKept hx
    exact ⟨g, u, hacc, hr.shaped, hr.nframes ▸ hr.inside, hbelow, hk, hm, htail⟩
  · obtain ⟨rfl, -⟩ := State.answered_ok_of_respond hok
    rcases he with he | he | he <;> cases he

/-- A walk from a root that answers OK leaves its three entries Mapped, the leaf to the frame that
it answers (R209). -/
theorem State.Accounted.walk_ok_maps (h : s.Accounted []) (hs : s.WellShaped) (hr : r < s.nframes)
    (hd : s.IsDirectory r) (hw : walk (decompose va) r s = .next t)
    (hok : t.Answered .ok 0#4 b) :
    ∃ m tb, t.entryFrame (entryAddr r (pdIdx va)) = some m ∧
      t.entryFrame (entryAddr m (pmdIdx va)) = some tb ∧
      t.MapsLeaf (entryAddr tb (ptIdx va)) b.toNat := by
  obtain ⟨m, u, hu, hus, hmn, hmid, hk₀, hm, hw⟩ :=
    h.walk_ok_cons hs hr (lvl := .directory) hd hw hok
  obtain ⟨tb, v, hv, hvs, htn, htab, hk₁, ht, hw⟩ :=
    hu.walk_ok_cons hus hmn (lvl := .middleDirectory) hmid hw hok
  obtain ⟨g, w, -, hws, hgn, -, hk₂, hg, hw⟩ := hv.walk_ok_cons hvs htn (lvl := .table) htab hw hok
  cases hw
  obtain ⟨-, rfl⟩ := State.answered_ok_of_respond hok
  have hup₀ : u.IsUpperEntry (entryAddr r (pdIdx va)) :=
    hk₀.upper (.inl (by rwa [frameOf_entryAddr]))
  have hup₁ : v.IsUpperEntry (entryAddr m (pmdIdx va)) :=
    hk₁.upper (.inr (by rwa [frameOf_entryAddr]))
  have htab' : w.IsTable tb := (hk₂.toKept.continues.kindsKept hvs hk₂.entry).table htab
  refine ⟨m, tb, hk₂.entry _ m (hk₁.upper hup₀) (hk₁.entry _ m hup₀ hm), hk₂.entry _ tb hup₁ ht,
    ?_, ?_⟩
  · rw [State.IsLeafEntry, frameOf_entryAddr]
    exact htab'
  · rw [State.respond_entryFrame, hg, toNat_ofNat_frame hws hgn]

/-- Settles O34: the walk leaves the path Mapped, and EQ holds every Mapped leaf (I-4). -/
theorem successfulFaultLeavesTheTranslation : Obligations.SuccessfulFaultLeavesTheTranslation := by
  unfold Obligations.SuccessfulFaultLeavesTheTranslation
  intro s t pid va g hs ho he hok
  obtain ⟨-, hp, hb, hw⟩ := walk_of_exec_fault_ok he hok
  obtain ⟨-, hin⟩ := hs.pdbr_inside hp hb
  have hd := s.isDirectory_pdbr hp hb
  have hacc := accounted_nil_iff.2 ho
  obtain ⟨m, tb, hm, ht, hleaf⟩ := hacc.walk_ok_maps hs hin hd hw hok
  obtain ⟨u, hu, hk⟩ := walk_cases (decompose va) hs hin
  rw [hw] at hu; cases hu
  have hroot : t.pdbr pid = s.pdbr pid := congrArg ProcRegs.pdbr (hk.proc pid)
  have hpath : t.pathOf pid va = [(entryAddr (s.pdbr pid).toNat (pdIdx va), some m),
      (entryAddr m (pmdIdx va), some tb), (entryAddr tb (ptIdx va), some g.toNat)] := by
    simp [State.pathOf_eq, hroot, State.hostWalk, hm, ht, hleaf.2]
  exact ⟨entryAddr tb (ptIdx va), State.translation_eq_some_iff.2 ⟨_, m, _, tb, hpath⟩,
    ((hacc.of_walk hs hin hd hw).queue.exact_iff _).2 ⟨_, hleaf⟩⟩

/-- Settles O35: the second walk meets the translation that the first one left. -/
theorem repeatedFaultChangesNothing : Obligations.RepeatedFaultChangesNothing := by
  unfold Obligations.RepeatedFaultChangesNothing
  intro s t pid va g hs ho he hok
  obtain ⟨loc, htr, -⟩ := successfulFaultLeavesTheTranslation s t pid va g hs ho he hok
  obtain ⟨hr, hp, hb, hw⟩ := walk_of_exec_fault_ok he hok
  obtain ⟨-, hin⟩ := hs.pdbr_inside hp hb
  obtain ⟨u, hu, hk⟩ := walk_cases (decompose va) hs hin
  rw [hw] at hu; cases hu
  obtain ⟨hready, -, -, -, hnpid, -⟩ := hk.control
  have hroot : t.pdbr pid = s.pdbr pid := congrArg ProcRegs.pdbr (hk.proc pid)
  have hp' : pid < t.npid := hnpid ▸ hp
  have hb' : t.pdbr pid ≠ 0#8 := hroot ▸ hb
  have ho' : t.Ownership := ho.of_exec hs (i := .fault pid va) trivial he
  rw [faultOnAMappedPathAnswersTheFrame t pid loc g.toNat va (hready.trans hr) hp' hb' htr
    fun a f ha => validFrame_iff.1 (ho'.path_valid hk.shaped hp' hb' htr ha), BitVec.ofNat_toNat,
    BitVec.setWidth_eq, State.respond_of_answered hok]

/-! ### Every frame pinned -/

/-- A data frame is not pinned: its one owner is a leaf entry (R34). -/
theorem State.FramesAccounted.mapsLeaf_not_pinned (h : s.FramesAccounted held)
    (hm : s.MapsLeaf loc f) : ¬ s.IsPinned f := by
  rintro (⟨h0, p, hp, hf⟩ | hd | hmid | htab)
  · cases h.owner_unique f _ (.control p) hm.owned ⟨hp, hf, h0⟩
  · obtain ⟨p, ho⟩ := hd.owned
    cases h.owner_unique f _ _ hm.owned ho
  · obtain ⟨a, ho, hd⟩ := hmid.owned
    cases h.owner_unique f _ _ hm.owned ho
    exact h.leaf_not_upper hm.1 (.inl hd)
  · obtain ⟨a, ho, hmid⟩ := htab.owned
    cases h.owner_unique f _ _ hm.owned ho
    exact h.leaf_not_upper hm.1 (.inr hmid)

section Exhausted

variable (hx : s.Exhausted) (hs : s.WellShaped) (ho : s.Ownership)
include hx ho

/-- With every allocated frame pinned no leaf is Mapped (R214). -/
theorem State.Exhausted.not_mapsLeaf : ¬ s.MapsLeaf loc f := fun hm =>
  have hacc := (accounted_nil_iff.2 ho).frames
  hacc.mapsLeaf_not_pinned hm (hx.pinned f (hacc.owned_used hm.owned))

/-- So EQ is empty (I-4). -/
theorem State.Exhausted.queue_nil : s.queue = [] :=
  List.eq_nil_iff_forall_not_mem.2 fun r hr => by
    obtain ⟨f, hm⟩ := ((accounted_nil_iff.2 ho).queue.exact_iff r.toNat).1 ⟨r, hr, rfl⟩
    exact hx.not_mapsLeaf ho hm

include hs

/-- So an allocation finds no frame and no victim, however many slots are free (R214). -/
theorem State.Exhausted.allocEvict_eq : allocEvict s = .err .noVictim s := by
  rw [allocEvict_of_full (hs.falloc_eq_none_iff.2 hx.full), evict_of_queue_nil (hx.queue_nil ho),
    Result.bind_err]

/-- A level of the walk descends to a table, or it needs a frame and gets none (R214). -/
theorem State.Exhausted.walkLevel_cases (hl : s.AtLevel lvl (frameOf loc))
    (hin : loc < Config.frameBytes * s.nframes) :
    (∃ g, lvl ≠ .table ∧ walkLevel lvl loc s = .ok g s ∧ g < s.nframes ∧ s.Below lvl g) ∨
      walkLevel lvl loc s = .err .noVictim s := by
  obtain ⟨b, hb⟩ := Option.isSome_iff_exists.1 ((hs.phys_exists loc).2 hin)
  have hupper (hne : lvl ≠ .table) : s.IsUpperEntry loc := by
    cases lvl with
    | directory => exact .inl hl
    | middleDirectory => exact .inr hl
    | table => exact absurd rfl hne
  cases hc : classify b with
  | mapped g =>
    have hg : s.entryFrame loc = some g.toNat := by rw [entryFrame_of_read hb, hc]; rfl
    have hne : lvl ≠ .table := by rintro rfl; exact hx.not_mapsLeaf ho ⟨hl, hg⟩
    have hv := ho.owned_valid hs (o := .entry loc) ⟨.inl (hupper hne), hg⟩
    obtain ⟨-, hn, -⟩ := validFrame_iff.1 hv
    exact .inl ⟨g.toNat, hne, walkLevel_followed hg hv, hn, hl.below hin hg⟩
  | unmapped =>
    exact .inr ((walkLevel_unmapped hb hc).trans (create_err (hx.allocEvict_eq hs ho)))
  | swapped i =>
    have hi : s.entrySlot loc = some i.toNat := by rw [entrySlot_of_read hb, hc]; rfl
    by_cases ht : lvl = .table
    · subst ht
      have hused := ho.swapped_used loc _ hl hi
      obtain ⟨-, hn⟩ := used_inside hs.sused_length hused
      exact .inr ((walkLevel_swapIn hi (validSlot_iff.2 ⟨hn, hused⟩)).trans
        (swapIn_err (hx.allocEvict_eq hs ho)))
    · have hnone := ho.upper_not_swapped loc (hupper ht)
      rw [hi] at hnone; cases hnone

/-- A walk answers ERR_NO_VICTIM if what follows its first level does, wherever that goes on to. -/
theorem State.Exhausted.walk_cons (hf : f < s.nframes) (hl : s.AtLevel lvl f)
    (hrest : ∀ g, lvl ≠ .table → g < s.nframes → s.Below lvl g →
      ∃ l : Level, walk rest g s = .next (s.respond .noVictim l.code 0#8)) :
    ∃ l : Level, walk ((lvl, idx) :: rest) f s = .next (s.respond .noVictim l.code 0#8) := by
  rcases hx.walkLevel_cases hs ho (loc := entryAddr f idx) (by rwa [frameOf_entryAddr])
    (entryAddr_inside hf idx) with ⟨g, hne, hw, hn, hbelow⟩ | hw
  · rw [walk_cons_ok hw]
    exact hrest g hne hn hbelow
  · exact ⟨lvl, walk_cons_err hw⟩

/-- Every walk from a root answers ERR_NO_VICTIM (R214). -/
theorem State.Exhausted.walk_eq (hf : f < s.nframes) (hd : s.IsDirectory f) :
    ∃ l : Level, walk (decompose va) f s = .next (s.respond .noVictim l.code 0#8) :=
  hx.walk_cons hs ho hf (lvl := .directory) hd fun _ _ hm hmid =>
    hx.walk_cons hs ho hm (lvl := .middleDirectory) hmid fun _ _ ht htab =>
      hx.walk_cons hs ho ht (lvl := .table) htab fun _ hne => absurd rfl hne

end Exhausted

/-- Settles O37: no victim for any allocation, so none for any walk or new binding. -/
theorem pinnedFramesDeadlockAllocation : Obligations.PinnedFramesDeadlockAllocation := by
  unfold Obligations.PinnedFramesDeadlockAllocation
  intro s hs ho hr hfull hpinned
  have hx : s.Exhausted := ⟨hfull, hpinned⟩
  refine ⟨hx.queue_nil ho, fun pid va hp hb => ?_, fun pid hp hu => ?_⟩
  · obtain ⟨-, hin⟩ := hs.pdbr_inside hp hb
    rw [exec_fault, execFault_bound hr hp hb]
    exact hx.walk_eq hs ho hin (s.isDirectory_pdbr hp hb)
  · rw [exec_bind, execBind_inside hr hp, bindProc, if_pos hu, hx.allocEvict_eq hs ho,
      Result.bind_err, Result.answer_err]

end Sys2Proof.Machine
end

section
/-!
Proofs about BIND (45_process_table.md R231): the state that a new binding leaves, byte by byte, and
what two allocations, each of which may evict, take before it.
-/

namespace Sys2Proof.Machine

variable {s t u s₁ s₂ : State} {pid c r g : Nat} {e : Status}

/-- Settles O21: BIND_PROC finds the binding and writes nothing. -/
theorem bindOfABoundPidAnswersItsRoot : Obligations.BindOfABoundPidAnswersItsRoot := by
  unfold Obligations.BindOfABoundPidAnswersItsRoot
  intro s pid hr hp hb
  rw [exec_bind, execBind_inside hr hp, bindProc, if_neg hb, Result.answer_ok]

/-! ### A new binding -/

/-- The state in which the frame `r` is an empty table, the frame `c` the control block that records
it, and both are the registers of `pid` (R231). -/
def State.withBinding (s : State) (pid c r : Nat) : State :=
  ((s.putBytes (frameBase r) [0x00#8, 0x00#8, 0x00#8, 0x00#8]).putBytes (frameBase c)
    (pcbBytes r)).putProc pid c r

theorem State.WellShaped.proc_withBinding (h : s.WellShaped) (hp : pid < s.npid) (q : Nat) :
    (s.withBinding pid c r).proc q =
      if q = pid then { pdbr := BitVec.ofNat 8 r, pcb := BitVec.ofNat 8 c } else s.proc q :=
  ((h.putBytes _ _).putBytes _ _).proc_putProc hp c r q

/-- Every byte after a binding: the control block is written last (R231). -/
theorem State.WellShaped.read_withBinding (h : s.WellShaped) (hc : c < s.nframes)
    (hr : r < s.nframes) (a : Nat) : (s.withBinding pid c r).phys.read a =
      if frameOf a = c then (pcbBytes r)[a - frameBase c]?
      else if frameOf a = r then some 0x00#8 else s.phys.read a := by
  rw [State.withBinding, State.putProc_phys, (h.putBytes _ _).read_putBytes_frame hc rfl]
  split
  · rfl
  · split
    · next hf => exact h.read_zeroed_frame hr hf
    · next hf => rw [h.read_putBytes_frame hr rfl, if_neg hf]

/-- The control block: the root's index, then zeros (R90). -/
theorem pcbBytes_getElem? (r : Nat) {k : Nat} (hk : k < 4) :
    (pcbBytes r)[k]? = some (if k = 0 then BitVec.ofNat 8 r else 0x00#8) := by
  interval_cases k <;> rfl

/-- What BIND leaves of the state `s` in which it has taken the frames `c` and `r` (R231). -/
structure State.Bound (s : State) (pid c r : Nat) (t : State) : Prop where
  answered : t.Answered .ok 0#4 (BitVec.ofNat 8 r)
  pcb : t.pcb pid = BitVec.ofNat 8 c
  pdbr : t.pdbr pid = BitVec.ofNat 8 r
  others : ∀ p, p ≠ pid → t.pdbr p = s.pdbr p ∧ t.pcb p = s.pcb p
  root : c ≠ r → ∀ k, k < 4 → t.phys.read (4 * r + k) = some 0x00#8
  block : ∀ k, k < 4 → t.phys.read (4 * c + k) = some (if k = 0 then BitVec.ofNat 8 r else 0x00#8)
  read : ∀ a, a / 4 ≠ c → a / 4 ≠ r → t.phys.read a = s.phys.read a
  fused : t.fused = s.fused
  sused : t.sused = s.sused
  swap : t.swap = s.swap
  queue : t.queue = s.queue
  draws : t.draws = s.draws
  control : s.SameControl t

theorem State.WellShaped.bound (h : s.WellShaped) (hp : pid < s.npid) (hc : c < s.nframes)
    (hr : r < s.nframes) :
    s.Bound pid c r ((s.withBinding pid c r).respond .ok 0#4 (BitVec.ofNat 8 r)) where
  answered := rfl
  pcb := by rw [State.respond_pcb, State.pcb, h.proc_withBinding hp, if_pos rfl]
  pdbr := by rw [State.respond_pdbr, State.pdbr, h.proc_withBinding hp, if_pos rfl]
  others := fun p hne => by
    rw [State.respond_pdbr, State.respond_pcb, State.pdbr, State.pcb, h.proc_withBinding hp,
      if_neg hne]
    exact ⟨rfl, rfl⟩
  root := fun hne k hk => by
    rw [State.respond_phys, h.read_withBinding hc hr, frameOf_byte hk, if_neg hne.symm, if_pos rfl]
  block := fun k hk => by
    rw [State.respond_phys, h.read_withBinding hc hr, if_pos (frameOf_byte hk), byte_sub_frameBase,
      pcbBytes_getElem? r hk]
  read := fun a hac har => by
    rw [State.respond_phys, h.read_withBinding hc hr, frameOf, if_neg hac, if_neg har]
  fused := rfl
  sused := rfl
  swap := rfl
  queue := rfl
  draws := rfl
  control := ⟨rfl, rfl, rfl, rfl, rfl, rfl⟩

/-! ### The three outcomes of BIND -/

section Outcomes

variable (h : s.WellShaped) (hready : s.ready = true) (hp : pid < s.npid) (hu : s.pdbr pid = 0#8)
include h hready hp hu

/-- With no frame for the control block nothing changes (R231). -/
theorem exec_bind_of_err (ha : allocEvict s = .err e t) :
    exec (.bind pid) s = .next (s.respond e 0#4 0#8) := by
  obtain ⟨rfl, -⟩ := allocEvict_err h ha
  rw [exec_bind, execBind_inside hready hp, bindProc, if_pos hu, ha, Result.bind_err,
    Result.answer_err]

/-- With no frame for the root the control block's is released (R231). -/
theorem exec_bind_of_ok_err (ha₁ : allocEvict s = .ok c s₁) (ha₂ : allocEvict s₁ = .err e t) :
    exec (.bind pid) s = .next ((s₁.putFrame c false).respond e 0#4 0#8) := by
  have hal := allocEvict_ok h ha₁
  have hfree := frelease_eq_ok hal.pos (hal.nframes ▸ hal.inside) hal.used
  obtain ⟨rfl, -⟩ := allocEvict_err hal.shaped ha₂
  simp only [exec_bind, execBind_inside hready hp, bindProc, if_pos hu, ha₁, Result.bind_ok,
    bindRoot, ha₂, hfree, Result.answer_err]

/-- With both frames the binding is registered (R231). -/
theorem exec_bind_of_ok_ok (ha₁ : allocEvict s = .ok c s₁) (ha₂ : allocEvict s₁ = .ok r s₂) :
    ∃ t, exec (.bind pid) s = .next t ∧ s₂.Bound pid c r t := by
  have hal := allocEvict_ok h ha₁
  have hal₂ := allocEvict_ok hal.shaped ha₂
  have hk := hal.toKept.trans hal₂.toKept
  refine ⟨_, ?_, hk.shaped.bound (hk.npid ▸ hp) (hk.nframes ▸ hal.inside)
    (hal₂.nframes ▸ hal₂.inside)⟩
  rcases bindProc_cases h hu with ⟨_, hx, -⟩ | ⟨_, _, _, hx, -, hx₂, -⟩ |
    ⟨_, _, _, _, hx, -, hx₂, -, hb⟩
  · rw [ha₁] at hx; cases hx
  · rw [ha₁] at hx; cases hx
    rw [ha₂] at hx₂; cases hx₂
  · rw [ha₁] at hx; cases hx
    rw [ha₂] at hx₂; cases hx₂
    rw [exec_bind, execBind_inside hready hp, hb, Result.answer_ok, State.withBinding]

end Outcomes

/-- Settles O22: FALLOC finds the lowest free frame, then the next, and the binding follows. -/
theorem bindTakesTwoFramesAndRegistersTheBinding :
    Obligations.BindTakesTwoFramesAndRegistersTheBinding := by
  unfold Obligations.BindTakesTwoFramesAndRegistersTheBinding
  intro s pid c r h hready hp hu hc1 hcr hrn hcfree hrfree hlow
  have hr1 := hc1.trans hcr.le
  have h₁ := h.putFrame c true
  have hused₁ := h.frameUsed_putFrame hc1 (hcr.trans hrn) true
  have ha₁ := allocEvict_of_falloc <| h.falloc_of_lowest hc1 (hcr.trans hrn) hcfree fun i hi hic =>
    hlow i hi (hic.trans hcr) hic.ne
  have ha₂ := allocEvict_of_falloc <| h₁.falloc_of_lowest hr1 hrn
    (by rw [hused₁, if_neg hcr.ne', hrfree]) fun i hi hir => by
      rw [hused₁]
      split
      · rfl
      · next hic => exact hlow i hi hir hic
  obtain ⟨t, he, hb⟩ := exec_bind_of_ok_ok h hready hp hu ha₁ ha₂
  refine ⟨t, he, hb.answered, hb.pcb, hb.pdbr, hb.others, hb.root hcr.ne, hb.block 0 (by omega),
    fun k hk1 hk => ?_, hb.read, fun i => ?_, hb.swap, hb.sused, hb.queue, hb.draws, hb.control⟩
  · rw [hb.block k hk, if_neg (by omega)]
  · rw [State.frameUsed, hb.fused, ← State.frameUsed, h₁.frameUsed_putFrame hr1 hrn, hused₁]
    by_cases hi : i = c <;> by_cases hj : i = r <;> simp [hi, hj]

/-- Settles O23, by the three outcomes; while the first frame is held no eviction can free it, so
the second is another one. -/
theorem bindFollowsItsTwoAllocations : Obligations.BindFollowsItsTwoAllocations := by
  unfold Obligations.BindFollowsItsTwoAllocations
  intro s pid h hready hp hu
  refine ⟨fun e t ha => exec_bind_of_err h hready hp hu ha, fun c s₁ e t ha₁ ha₂ => ?_,
    fun c s₁ r s₂ ho ha₁ ha₂ => ?_⟩
  · have hal := allocEvict_ok h ha₁
    refine ⟨_, exec_bind_of_ok_err h hready hp hu ha₁ ha₂, rfl, hal.procs, fun i => ?_, rfl, rfl,
      rfl, rfl, hal.draws, hal.control⟩
    rw [State.respond_frameUsed, hal.shaped.frameUsed_putFrame hal.pos
      (hal.nframes ▸ hal.inside), Bool.if_false_left]
  · have hA₁ := (accounted_nil_iff.2 ho).of_allocEvict h ha₁
    have hA₂ := hA₁.accounted.of_allocEvict hA₁.shaped ha₂
    have hne : c ≠ r := by simpa [eq_comm] using hA₂.accounted.frames.held_nodup
    have hk := hA₁.toKept.trans hA₂.toKept
    obtain ⟨t, he, hb⟩ := exec_bind_of_ok_ok h hready hp hu ha₁ ha₂
    have hkt : s.SameControl t := by simpa [State.SameControl, hb.control] using hk.control
    refine ⟨t, he, hb.answered, hb.pcb, hb.pdbr, fun p hpne => ?_, hb.root hne, hb.block, hb.read,
      hb.fused, hb.sused, hb.swap, hb.queue, by rw [hb.draws, hA₂.draws, hA₁.draws], hkt⟩
    simpa only [State.pdbr, State.pcb, hk.proc] using hb.others p hpne

/-! ### What BIND takes and writes, from every well-shaped state -/

/-- The front of EQ has been evicted `k` times and the frames `fs` have been taken; nothing else of
PHYS or FUSED has changed. -/
structure State.Took (s : State) (k : Nat) (fs : List Nat) (t : State) : Prop
    extends s.Kept t where
  queue : t.queue = s.queue.drop k
  read : ∀ a, (∀ r ∈ s.queue.take k, r.toNat ≠ a) → t.phys.read a = s.phys.read a
  used : ∀ i, t.frameUsed i = true ↔ i ∈ fs ∨ s.frameUsed i = true
  draws : t.draws = s.draws

theorem State.Took.trans {k k' : Nat} {fs fs' : List Nat} (h : s.Took k fs t)
    (h' : t.Took k' fs' u) : s.Took (k + k') (fs' ++ fs) u := by
  refine ⟨h.toKept.trans h'.toKept, by rw [h'.queue, h.queue, List.drop_drop], fun a ha => ?_,
    fun i => ?_, h'.draws.trans h.draws⟩
  · rw [List.take_add, ← h.queue] at ha
    rw [h'.read a fun r hr => ha r (List.mem_append_right _ hr),
      h.read a fun r hr => ha r (List.mem_append_left _ hr)]
  · rw [h'.used, h.used, List.mem_append, or_assoc]

/-- What has been taken is a frame that exists. -/
theorem State.Took.inside {k : Nat} {fs : List Nat} (h : s.Took k fs t) (hg : g ∈ fs) :
    1 ≤ g ∧ g < s.nframes :=
  h.nframes ▸ h.shaped.frameUsed_inside ((h.used g).2 (.inl hg))

/-- ALLOC_EVICT (R192) takes one frame and at most one element of EQ; if it evicts, the frame is the
victim's, which was used before. -/
theorem State.WellShaped.allocEvict_took (h : s.WellShaped) (ha : allocEvict s = .ok g t) :
    ∃ k, k ≤ 1 ∧ s.Took k [g] t := by
  have hal := allocEvict_ok h ha
  cases hf : falloc s with
  | some x =>
    obtain ⟨g', t'⟩ := x
    rw [allocEvict_of_falloc hf] at ha; cases ha
    obtain ⟨-, -, -, -, rfl⟩ := falloc_some hf
    refine ⟨0, Nat.zero_le 1, hal.toKept, rfl, fun _ _ => rfl, fun i => ?_, hal.draws⟩
    rw [h.frameUsed_putFrame hal.pos hal.inside]
    by_cases hi : i = g <;> simp [hi]
  | none =>
    rw [allocEvict_of_full hf] at ha
    cases he : evict s with
    | ok _ w =>
      obtain ⟨r, q, slot, v, hq, -, hv, rfl⟩ := evict_ok h he
      rw [he, Result.bind_ok, retryAlloc, h.falloc_after_evict hf hv] at ha; cases ha
      refine ⟨1, le_rfl, hal.toKept, by rw [List.drop_one]; rfl, fun a hna => ?_, fun i => ?_,
        hal.draws⟩
      · exact Memory.read_write_other _ (hna r (by simp [hq])).symm _
      · rw [(h.evicted r slot g).shaped.frameUsed_putFrame hal.pos hal.inside,
          h.frameUsed_evicted hv]
        by_cases hi : i = g <;> simp [hi]
    | err e w => rw [he, Result.bind_err] at ha; cases ha
    | raised x w => rw [he, Result.bind_raised] at ha; cases ha

/-- BIND has made no new binding: it has evicted the front of EQ `k` times, and every frame that is
used was used before. -/
structure State.NoNewBinding (s : State) (k : Nat) (t : State) : Prop extends s.Kept t where
  queue : t.queue = s.queue.drop k
  read : ∀ a, (∀ r ∈ s.queue.take k, r.toNat ≠ a) → t.phys.read a = s.phys.read a
  used : ∀ i, t.frameUsed i = true → s.frameUsed i = true
  draws : t.draws = s.draws

theorem State.WellShaped.noNewBinding_respond (h : s.WellShaped) (st : Status) (b : Byte) :
    s.NoNewBinding 0 (s.respond st 0#4 b) where
  shaped := h.respond _ _ _
  control := ⟨rfl, rfl, rfl, rfl, rfl, rfl⟩
  procs := rfl
  queue := rfl
  read := fun _ _ => rfl
  used := fun _ hi => hi
  draws := rfl

/-- The one frame that was taken is given back (R231). -/
theorem State.Took.noNewBinding {k : Nat} (h : s.Took k [c] t) (st : Status) (b : Byte) :
    s.NoNewBinding k ((t.putFrame c false).respond st 0#4 b) where
  shaped := (h.shaped.putFrame c false).respond _ _ _
  control := h.control
  procs := h.procs
  queue := h.queue
  read := h.read
  used := fun i hi => by
    obtain ⟨hc1, hcn⟩ := h.inside (g := c) (by simp)
    rw [State.respond_frameUsed, h.shaped.frameUsed_putFrame hc1 (h.nframes ▸ hcn)] at hi
    split at hi
    · cases hi
    · next hne => simpa [hne] using (h.used i).1 hi
  draws := h.draws

/-- What BIND of a pid in range can do (R231): it makes no new binding, or it takes two frames and
binds the pid to them. -/
theorem exec_bind_cases (h : s.WellShaped) (hready : s.ready = true) (hp : pid < s.npid) :
    (∃ t k, exec (.bind pid) s = .next t ∧ k ≤ 2 ∧ s.NoNewBinding k t) ∨
    (s.pdbr pid = 0#8 ∧ ∃ c r u t k, exec (.bind pid) s = .next t ∧ k ≤ 2 ∧ s.Took k [r, c] u ∧
      u.Bound pid c r t) := by
  by_cases hu : s.pdbr pid = 0#8
  · rcases allocEvict_cases h with ⟨c, s₁, ha₁, hc⟩ | ⟨e, ha⟩
    · obtain ⟨k₁, hk₁, hT₁⟩ := h.allocEvict_took ha₁
      rcases allocEvict_cases hc.shaped with ⟨r, s₂, ha₂, -⟩ | ⟨e, ha₂⟩
      · obtain ⟨k₂, hk₂, hT₂⟩ := hc.shaped.allocEvict_took ha₂
        obtain ⟨t, he, hb⟩ := exec_bind_of_ok_ok h hready hp hu ha₁ ha₂
        exact .inr ⟨hu, c, r, s₂, t, k₁ + k₂, he, by omega, hT₁.trans hT₂, hb⟩
      · exact .inl ⟨_, k₁, exec_bind_of_ok_err h hready hp hu ha₁ ha₂, by omega,
          hT₁.noNewBinding _ _⟩
    · exact .inl ⟨_, 0, exec_bind_of_err h hready hp hu ha, by omega, h.noNewBinding_respond _ _⟩
  · exact .inl ⟨_, 0, bindOfABoundPidAnswersItsRoot s pid hready hp hu, by omega,
      h.noNewBinding_respond _ _⟩

/-- Settles O24, by what BIND can do. -/
theorem bindCompletesWithinItsFrame : Obligations.BindCompletesWithinItsFrame := by
  unfold Obligations.BindCompletesWithinItsFrame
  intro s pid h hready hp
  rcases exec_bind_cases h hready hp with ⟨t, k, he, hk, hn⟩ |
    ⟨hu, c, r, u, t, k, he, hk, hT, hb⟩
  · have hroot : t.pdbr pid = s.pdbr pid := congrArg ProcRegs.pdbr (hn.proc pid)
    exact ⟨t, k, he, hk, hn.queue, hn.control, hn.draws,
      fun p _ => by simp only [State.pdbr, State.pcb, hn.proc, and_self], fun _ => hn.procs,
      fun a ha _ => hn.read a ha, fun hu hb => absurd (hroot.trans hu) hb, fun _ => hn.used⟩
  · obtain ⟨hr1, hrn⟩ := hT.inside (g := r) (by simp)
    obtain ⟨-, hcn⟩ := hT.inside (g := c) (by simp)
    have hrv : (t.pdbr pid).toNat = r := by rw [hb.pdbr, toNat_ofNat_frame h hrn]
    have hcv : (t.pcb pid).toNat = c := by rw [hb.pcb, toNat_ofNat_frame h hcn]
    have hbound : t.pdbr pid ≠ 0#8 := fun hz => by
      have h0 : r = 0 := by rw [← hrv, hz]; rfl
      omega
    refine ⟨t, k, he, hk, hb.queue.trans hT.queue, ?_, hb.draws.trans hT.draws, fun p hne => ?_,
      fun hx => ?_, fun a ha hout => ?_, fun _ _ => ⟨hb.pdbr ▸ hb.answered, fun i => ?_⟩,
      fun hz => absurd hz hbound⟩
    · simpa [State.SameControl, hb.control] using hT.control
    · simpa only [State.pdbr, State.pcb, hT.proc] using hb.others p hne
    · rcases hx with hx | hx
      · exact absurd hu hx
      · exact absurd hx hbound
    · obtain ⟨har, hac⟩ := hout hu hbound
      rw [hb.read a (hcv ▸ hac) (hrv ▸ har), hT.read a ha]
    · rw [hrv, hcv, Bool.eq_iff_iff, State.frameUsed, hb.fused, ← State.frameUsed, hT.used]
      simp [or_assoc]

end Sys2Proof.Machine
end

section
/-!
Proofs about the bytes that BIND and FAULT do not read (45_process_table.md R233, 20_memory.md R51).
Replacing the byte at `a` before an operation replaces it in the operation's result, if the
operation neither reads nor writes `a`. Under the invariants of R35 the bytes of a control block and
of frame 0 are such: no entry lies there and no allocation answers those frames.
-/

namespace Sys2Proof.Machine

variable {s t u : State} {a loc f g pid c r : Nat} {v : Byte} {held : List Nat} {lvl : Level}
  {idx : BitVec 2} {rest : List (Level × BitVec 2)}

/-! ### Results with one byte of PHYS replaced -/

/-- The same result in the state whose byte at `a` is replaced. -/
def Result.patch {α : Type} (a : Nat) (v : Byte) (x : Result α) : Result α :=
  match x with
  | .ok y s => .ok y (s.putPhys a v)
  | .err e s => .err e (s.putPhys a v)
  | .raised r s => .raised r (s.putPhys a v)

/-- The same answer with the state's byte at `a` replaced; a fault carries no state (R296). -/
def patchAnswer (a : Nat) (v : Byte) (x : Answer) : Answer :=
  match x with
  | .next s => .next (s.putPhys a v)
  | .fault r => .fault r
  | .refused r => .refused r

/-- An operation followed by another one that does not see the byte, wherever the first one ends. -/
theorem Result.bind_patch {α β : Type} {x : Result α} {k : α → State → Result β}
    (hk : ∀ y t, x = .ok y t → k y (t.putPhys a v) = (k y t).patch a v) :
    (x.patch a v).bind k = (x.bind k).patch a v := by
  cases x with
  | ok y t => exact hk y t rfl
  | err e t => rfl
  | raised r t => rfl

theorem Result.answer_patch (x : Result Byte) :
    (x.patch a v).answer = patchAnswer a v x.answer := by
  cases x <;> rfl

/-! ### Bytes and bits -/

/-- Writes at two addresses commute. -/
theorem Memory.write_comm (m : Memory) {x y : Nat} (h : x ≠ y) (b d : Byte) :
    (m.write x b).write y d = (m.write y d).write x b := by
  simp only [Memory.write, List.map_map]
  refine List.map_congr_left fun cell _ => ?_
  by_cases hx : cell.1 = x
  · simp [hx, h]
  · by_cases hy : cell.1 = y <;> simp [hx, hy, Ne.symm h]

theorem State.putPhys_comm (s : State) {x : Nat} (h : x ≠ a) (b : Byte) :
    (s.putPhys a v).putPhys x b = (s.putPhys x b).putPhys a v := by
  simp only [State.putPhys, Memory.write_comm s.phys h.symm]

theorem readPhys_patch {x : Nat} (h : x ≠ a) :
    readPhys x (s.putPhys a v) = (readPhys x s).patch a v := by
  rw [readPhys, readPhys, State.putPhys_phys, Memory.read_write_other _ h]
  cases s.phys.read x <;> rfl

theorem writePhys_patch {x : Nat} (h : x ≠ a) (b : Byte) :
    writePhys x b (s.putPhys a v) = (writePhys x b s).patch a v := by
  rw [writePhys, writePhys, State.putPhys_phys, Memory.read_write_other _ h, s.putPhys_comm h]
  cases s.phys.read x <;> rfl

theorem writeBytes_patch {bs : List Byte} {x : Nat} (h : ∀ k, k < bs.length → x + k ≠ a) :
    writeBytes x bs (s.putPhys a v) = (writeBytes x bs s).patch a v := by
  induction bs generalizing s x with
  | nil => rfl
  | cons b rest ih =>
    rw [writeBytes, writeBytes, writePhys_patch (x := x) (h 0 (by simp))]
    refine Result.bind_patch fun _ t _ => ih fun k hk => ?_
    rw [Nat.add_assoc, Nat.add_comm 1]
    exact h (k + 1) (by simpa using hk)

/-- The four bytes of another frame. -/
theorem writeFrame_patch {bs : List Byte} (hb : bs.length = 4) (h : frameOf a ≠ g) :
    writeBytes (frameBase g) bs (s.putPhys a v) = (writeBytes (frameBase g) bs s).patch a v := by
  refine writeBytes_patch fun k hk hx => h ?_
  rw [← hx]
  exact frameOf_byte (hb ▸ hk)

theorem zeroFrame_patch (h : frameOf a ≠ g) :
    zeroFrame g (s.putPhys a v) = (zeroFrame g s).patch a v := writeFrame_patch rfl h

theorem drawFrame_patch (h : frameOf a ≠ g) :
    drawFrame g (s.putPhys a v) = (drawFrame g s).patch a v :=
  writeFrame_patch (s := s.afterDraws) (bs := s.drawnBytes) rfl h

theorem writeSwap_patch (x : Nat) (b : Byte) :
    writeSwap x b (s.putPhys a v) = (writeSwap x b s).patch a v := by
  rw [writeSwap, writeSwap, State.putPhys_swap]
  cases s.swap.read x <;> rfl

theorem frelease_patch (f : Nat) :
    frelease f (s.putPhys a v) = (frelease f s).patch a v := by
  rw [frelease, frelease, State.putPhys_nframes, State.putPhys_frameUsed]
  split <;> rfl

theorem srelease_patch (i : Nat) :
    srelease i (s.putPhys a v) = (srelease i s).patch a v := by
  rw [srelease, srelease, State.putPhys_nslots, State.putPhys_slotUsed]
  split <;> rfl

theorem falloc_putPhys :
    falloc (s.putPhys a v) = (falloc s).map fun x => (x.1, x.2.putPhys a v) := by
  rw [falloc, falloc, Option.map_map]
  rfl

theorem retryAlloc_patch : retryAlloc (s.putPhys a v) = (retryAlloc s).patch a v := by
  rw [retryAlloc, retryAlloc, falloc_putPhys]
  cases falloc s <;> rfl

/-! ### Allocation -/

theorem evictVictim_patch {x : Byte} (slot w : Nat) (h : x.toNat ≠ a) :
    evictVictim x slot w (s.putPhys a v) = (evictVictim x slot w s).patch a v := by
  have hwrite :
      writePhys x.toNat (encSwapped slot) ((s.putPhys a v).dropFront.putSlot slot true) =
        (writePhys x.toNat (encSwapped slot) (s.dropFront.putSlot slot true)).patch a v :=
    writePhys_patch (s := s.dropFront.putSlot slot true) h _
  rw [evictVictim, evictVictim, hwrite]
  refine Result.bind_patch fun _ t _ => ?_
  rw [frelease_patch]
  exact Result.bind_patch fun _ _ _ => writeSwap_patch _ _

/-- EVICT looks at the front of EQ alone (R193). -/
theorem evict_patch (h : ∀ x ∈ s.queue, x.toNat ≠ a) :
    evict (s.putPhys a v) = (evict s).patch a v := by
  cases hq : s.queue with
  | nil => rw [evict_of_queue_nil hq, evict_of_queue_nil (s := s.putPhys a v) hq]; rfl
  | cons x q =>
    have hx := h x (by simp [hq])
    cases hk : speek s with
    | none => rw [evict_of_no_slot hq hk, evict_of_no_slot (s := s.putPhys a v) hq hk]; rfl
    | some slot =>
      have hk' : speek (s.putPhys a v) = some slot := hk
      simp only [evict, State.putPhys_queue, hq, hk, hk', readPhys_patch hx]
      refine Result.bind_patch fun b t _ => ?_
      split
      · next w _ =>
        have hv : validFrame (t.putPhys a v) w.toNat = validFrame t w.toNat := rfl
        rw [hv]
        split
        · exact evictVictim_patch _ _ hx
        · rfl
      · rfl
      · rfl

theorem allocEvict_patch (h : ∀ x ∈ s.queue, x.toNat ≠ a) :
    allocEvict (s.putPhys a v) = (allocEvict s).patch a v := by
  cases hf : falloc s with
  | some x =>
    have hf' : falloc (s.putPhys a v) = some (x.1, x.2.putPhys a v) := by
      rw [falloc_putPhys, hf]; rfl
    rw [allocEvict_of_falloc hf, allocEvict_of_falloc hf']; rfl
  | none =>
    have hf' : falloc (s.putPhys a v) = none := by rw [falloc_putPhys, hf]; rfl
    rw [allocEvict_of_full hf, allocEvict_of_full hf', evict_patch h]
    exact Result.bind_patch fun _ _ _ => retryAlloc_patch

/-! ### The walk and BIND_PROC -/

/-- An allocation neither reads the byte at `a` nor answers its frame. -/
structure State.Avoids (s : State) (a : Nat) : Prop where
  queue : ∀ x ∈ s.queue, x.toNat ≠ a
  taken : ∀ g t, allocEvict s = .ok g t → frameOf a ≠ g

section Avoids

variable (h : s.Avoids a)
include h

theorem mapTable_patch (hl : loc ≠ a) :
    mapTable loc (s.putPhys a v) = (mapTable loc s).patch a v := by
  rw [mapTable, allocEvict_patch h.queue]
  refine Result.bind_patch fun g t ha => ?_
  rw [zeroFrame_patch (h.taken g t ha)]
  refine Result.bind_patch fun _ t _ => ?_
  rw [writePhys_patch hl]
  exact Result.bind_patch fun _ _ _ => rfl

theorem mapLeaf_patch (hl : loc ≠ a) :
    mapLeaf loc (s.putPhys a v) = (mapLeaf loc s).patch a v := by
  rw [mapLeaf, allocEvict_patch h.queue]
  refine Result.bind_patch fun g t ha => ?_
  rw [drawFrame_patch (h.taken g t ha)]
  refine Result.bind_patch fun _ t _ => ?_
  rw [writePhys_patch hl]
  exact Result.bind_patch fun _ _ _ => rfl

theorem swapIn_patch (hl : loc ≠ a) (slot : Nat) :
    swapIn loc slot (s.putPhys a v) = (swapIn loc slot s).patch a v := by
  rw [swapIn, allocEvict_patch h.queue]
  refine Result.bind_patch fun g t ha => ?_
  rw [drawFrame_patch (h.taken g t ha)]
  refine Result.bind_patch fun _ t _ => ?_
  rw [srelease_patch]
  refine Result.bind_patch fun _ t _ => ?_
  rw [writePhys_patch hl]
  exact Result.bind_patch fun _ _ _ => rfl

omit h in
theorem descend_patch (g : Nat) : descend g (s.putPhys a v) = (descend g s).patch a v := by
  have hv : validFrame (s.putPhys a v) g = validFrame s g := rfl
  rw [descend, descend, hv]
  split <;> rfl

theorem create_patch (hl : loc ≠ a) :
    create lvl loc (s.putPhys a v) = (create lvl loc s).patch a v := by
  cases lvl with
  | directory => exact mapTable_patch h hl
  | middleDirectory => exact mapTable_patch h hl
  | table => exact mapLeaf_patch h hl

theorem restore_patch (hl : loc ≠ a) (slot : Nat) :
    restore lvl loc slot (s.putPhys a v) = (restore lvl loc slot s).patch a v := by
  cases lvl with
  | directory => rfl
  | middleDirectory => rfl
  | table =>
    have hv : validSlot (s.putPhys a v) slot = validSlot s slot := rfl
    rw [restore, restore, hv]
    split
    · exact swapIn_patch h hl slot
    · rfl

theorem walkLevel_patch (hl : loc ≠ a) :
    walkLevel lvl loc (s.putPhys a v) = (walkLevel lvl loc s).patch a v := by
  cases hb : s.phys.read loc with
  | none => rw [walkLevel, walkLevel, readPhys_patch hl, readPhys, hb]; rfl
  | some b =>
    have hb' : (s.putPhys a v).phys.read loc = some b := by
      rw [State.putPhys_phys, Memory.read_write_other _ hl, hb]
    cases hc : classify b with
    | mapped g => rw [walkLevel_mapped hb hc, walkLevel_mapped hb' hc]; exact descend_patch _
    | unmapped => rw [walkLevel_unmapped hb hc, walkLevel_unmapped hb' hc]; exact create_patch h hl
    | swapped i =>
      rw [walkLevel_swapped hb hc, walkLevel_swapped hb' hc]; exact restore_patch h hl _

end Avoids

theorem registerBinding_patch (hc : frameOf a ≠ c) (hr : frameOf a ≠ r) :
    registerBinding pid c r (s.putPhys a v) = (registerBinding pid c r s).patch a v := by
  rw [registerBinding, zeroFrame_patch hr]
  refine Result.bind_patch fun _ t _ => ?_
  rw [writeFrame_patch rfl hc]
  exact Result.bind_patch fun _ _ _ => rfl

theorem bindRoot_patch (h : s.Avoids a) (hc : frameOf a ≠ c) :
    bindRoot pid c (s.putPhys a v) = (bindRoot pid c s).patch a v := by
  rw [bindRoot, bindRoot, allocEvict_patch h.queue]
  cases ha : allocEvict s with
  | ok r t => exact registerBinding_patch hc (h.taken r t ha)
  | err e t =>
    change (frelease c (t.putPhys a v)).bind _ = _
    rw [frelease_patch]
    exact Result.bind_patch fun _ _ _ => rfl
  | raised x t => rfl

/-- BIND_PROC (R231), if neither of its allocations answers the byte's frame. -/
theorem bindProc_patch (h : s.Avoids a) (h₁ : ∀ c t, allocEvict s = .ok c t → t.Avoids a) :
    bindProc pid (s.putPhys a v) = (bindProc pid s).patch a v := by
  rw [bindProc, bindProc, State.putPhys_pdbr]
  split
  · rw [allocEvict_patch h.queue]
    exact Result.bind_patch fun c t ha => bindRoot_patch (h₁ c t ha) (h.taken c t ha)
  · rfl

/-! ### Control blocks and frame 0 -/

/-- The byte lies in frame 0 or in a control block (R51, R233). -/
def State.Inert (s : State) (a : Nat) : Prop := frameOf a = 0 ∨ s.IsControl (frameOf a)

theorem State.Kept.inert (h : s.Kept t) (ha : s.Inert a) : t.Inert a :=
  ha.imp_right fun ⟨h0, p, hp, hf⟩ => ⟨h0, p, h.npid ▸ hp, by rw [State.pcb, h.proc]; exact hf⟩

/-- A used frame that holds such a byte belongs to a control block. -/
theorem State.Inert.owned (ha : s.Inert a) (hs : s.WellShaped)
    (hu : s.frameUsed (frameOf a) = true) : ∃ p, s.Owns (.control p) (frameOf a) := by
  obtain ⟨h1, -⟩ := hs.frameUsed_inside hu
  rcases ha with h0 | ⟨h0, p, hp, hf⟩
  · omega
  · exact ⟨p, hp, hf, h0⟩

/-- No entry lies in frame 0 or in a control block (I-1). -/
theorem State.Accounted.inert_not_entry (h : s.Accounted held) (hs : s.WellShaped)
    (ha : s.Inert a) : ¬ (s.IsUpperEntry a ∨ s.IsLeafEntry a) := by
  intro he
  obtain ⟨p, hp⟩ := ha.owned hs (h.frames.entries_used he)
  rcases he with (hd | hm) | ht
  · obtain ⟨q, hq⟩ := hd.owned
    cases h.frames.owner_unique _ _ _ hp hq
  · obtain ⟨b, hb, -⟩ := hm.owned
    cases h.frames.owner_unique _ _ _ hp hb
  · obtain ⟨b, hb, -⟩ := ht.owned
    cases h.frames.owner_unique _ _ _ hp hb

/-- So EQ does not refer to the byte, and no allocation answers its frame (I-4, R121). -/
theorem State.Accounted.avoids (h : s.Accounted held) (hs : s.WellShaped) (ha : s.Inert a) :
    s.Avoids a where
  queue := fun x hx he => h.inert_not_entry hs ha (.inr (he ▸ h.queue.leaf hx))
  taken := fun g t hal he => by
    have hA := h.of_allocEvict hs hal
    obtain ⟨p, hp⟩ := (hA.toKept.inert ha).owned hA.shaped (he ▸ hA.used)
    exact hA.accounted.frames.held_unowned g List.mem_cons_self _ (he ▸ hp)

/-- A walk does not see the byte if what follows its first level does not. -/
theorem State.Accounted.walk_cons_patch (h : s.Accounted []) (hs : s.WellShaped) (ha : s.Inert a)
    (hf : f < s.nframes) (hl : s.AtLevel lvl f)
    (hrest : ∀ u g, u.Accounted [] → u.WellShaped → u.Inert a → g < u.nframes → u.Below lvl g →
      walk rest g (u.putPhys a v) = patchAnswer a v (walk rest g u)) :
    walk ((lvl, idx) :: rest) f (s.putPhys a v) =
      patchAnswer a v (walk ((lvl, idx) :: rest) f s) := by
  have hin := entryAddr_inside hf idx
  have hl' : s.AtLevel lvl (frameOf (entryAddr f idx)) := by rwa [frameOf_entryAddr]
  have hne : entryAddr f idx ≠ a := by
    rintro rfl
    refine h.inert_not_entry hs ha ?_
    cases lvl with
    | directory => exact .inl (.inl hl')
    | middleDirectory => exact .inl (.inr hl')
    | table => exact .inr hl'
  have hpatch := walkLevel_patch (h.avoids hs ha) (lvl := lvl) (v := v) hne
  rcases walkLevel_cases hs lvl hin with ⟨g, u, hw, hr⟩ | ⟨e, hw⟩
  · obtain ⟨hu, hb⟩ := h.of_walkLevel hs hl' hin hw
    rw [hw] at hpatch
    rw [walk_cons_ok hw, walk_cons_ok hpatch]
    exact hrest u g hu hr.shaped (hr.toKept.inert ha) (hr.nframes ▸ hr.inside) hb
  · rw [hw] at hpatch
    rw [walk_cons_err hw, walk_cons_err hpatch]
    rfl

/-- The whole walk from a root (R206). -/
theorem State.Accounted.walk_patch {va : Byte} (h : s.Accounted []) (hs : s.WellShaped)
    (ha : s.Inert a) (hf : f < s.nframes) (hd : s.IsDirectory f) :
    walk (decompose va) f (s.putPhys a v) = patchAnswer a v (walk (decompose va) f s) :=
  h.walk_cons_patch hs ha hf (lvl := .directory) hd fun _ _ hu hus hua hm hmid =>
    hu.walk_cons_patch hus hua hm (lvl := .middleDirectory) hmid fun _ _ hw hws hwa hb htab =>
      hw.walk_cons_patch hws hwa hb (lvl := .table) htab fun _ _ _ _ _ _ _ => rfl

theorem whenReady_patch {run : State → Answer} (h : run (s.putPhys a v) = patchAnswer a v (run s)) :
    whenReady (s.putPhys a v) run = patchAnswer a v (whenReady s run) := by
  rw [whenReady, whenReady, State.isReady, State.isReady, State.putPhys_ready]
  split
  · exact h
  · rfl

/-- BIND does not see the byte (R233). -/
theorem State.Accounted.execBind_patch (h : s.Accounted []) (hs : s.WellShaped) (ha : s.Inert a)
    (pid : Nat) : execBind pid (s.putPhys a v) = patchAnswer a v (execBind pid s) := by
  have hproc : bindProc pid (s.putPhys a v) = (bindProc pid s).patch a v :=
    bindProc_patch (h.avoids hs ha) fun c t hc =>
      have hA := h.of_allocEvict hs hc
      hA.accounted.avoids hA.shaped (hA.toKept.inert ha)
  refine whenReady_patch ?_
  rw [State.putPhys_npid]
  split
  · rfl
  · rw [hproc, Result.answer_patch]

/-- FAULT does not see the byte (R233). -/
theorem State.Accounted.execFault_patch (h : s.Accounted []) (hs : s.WellShaped) (ha : s.Inert a)
    (pid : Nat) (va : Byte) :
    execFault pid va (s.putPhys a v) = patchAnswer a v (execFault pid va s) := by
  refine whenReady_patch ?_
  rw [State.putPhys_npid, State.putPhys_pdbr]
  split
  · rfl
  · next hp =>
    split
    · rfl
    · next hb =>
      obtain ⟨-, hin⟩ := hs.pdbr_inside (by omega) hb
      exact h.walk_patch hs ha hin (s.isDirectory_pdbr (by omega) hb)

/-- Settles O52: the byte is no entry and its frame is not taken, so every operation of the two
commands carries the new byte along. -/
theorem controlBlockBytesDoNotMatter : Obligations.ControlBlockBytesDoNotMatter := by
  unfold Obligations.ControlBlockBytesDoNotMatter
  intro s t i a v hs ho hi _ ha he
  have h := accounted_nil_iff.2 ho
  rcases hi with ⟨pid, rfl⟩ | ⟨pid, va, rfl⟩
  · rw [exec_bind] at he ⊢
    rw [h.execBind_patch hs ha, he]
    rfl
  · rw [exec_fault] at he ⊢
    rw [h.execFault_patch hs ha, he]
    rfl

end Sys2Proof.Machine
end

section
/-!
Proofs about the five commands (46_commands.md): what INIT leaves, the answers that refuse a
command, the host's access to PHYS, and the step that runs the command of a word.
-/

namespace Sys2Proof.Machine

variable {s : State} {a n i : Nat} {b : Byte} {w : CommandWord} {rest : List CommandWord}

/-! ### INIT -/

/-- In a bitmap as INIT leaves it every index in range is free. -/
theorem Bitmap.bit_replicate_false_inside (h1 : 1 ≤ i) (hn : i < n) :
    Bitmap.bit (List.replicate (n - 1) false) i = some false := by
  by_contra hne
  have hused := (Bitmap.bit_ne_some_false_iff List.length_replicate h1 hn).1 hne
  rw [Bitmap.bit_replicate_false] at hused
  cases hused

/-- INIT leaves no binding (R252). -/
theorem State.initialise_proc (s : State) (nf ns p : Nat) :
    (s.initialise nf ns).proc p = { pdbr := 0#8, pcb := 0#8 } := by
  rw [State.proc, State.initialise_procs]
  rcases lt_or_ge p s.npid with hp | hp
  · exact List.getD_replicate _ hp
  · exact List.getD_eq_default _ _ (by rwa [List.length_replicate])

/-- Settles O16, item by item from what INIT writes; the limits are INIT's own test. -/
theorem initGivesEveryItemItsInitialValue : Obligations.InitGivesEveryItemItsInitialValue := by
  unfold Obligations.InitGivesEveryItemItsInitialValue
  intro s psize ssize
  constructor
  · intro hp hn
    have hproc := s.initialise_proc (psize / 4) (ssize / 4)
    exact ⟨_, execInit_eq hp hn s, rfl, rfl, rfl, rfl,
      fun a => Memory.read_zeroed _ a, fun a => Memory.read_zeroed _ a,
      fun _ h1 hf => Bitmap.bit_replicate_false_inside h1 hf,
      fun _ h1 hi => Bitmap.bit_replicate_false_inside h1 hi, rfl,
      fun p => ⟨congrArg ProcRegs.pdbr (hproc p), congrArg ProcRegs.pcb (hproc p)⟩,
      rfl, rfl, rfl, rfl⟩
  · intro hlarge
    rcases execInit_cases psize ssize s with ⟨hp, hn, -⟩ | hrefused
    · omega
    · exact hrefused

/-! ### Commands refused before they begin -/

/-- Settles O19, by the READY check of each command. -/
theorem commandsBeforeInitAnswerNotInit : Obligations.CommandsBeforeInitAnswerNotInit := by
  unfold Obligations.CommandsBeforeInitAnswerNotInit
  exact fun _ _ hr hi => exec_not_ready hr hi

/-- Settles O25: the binding is checked before the walk begins. -/
theorem faultOfAnUnboundPidAnswersNotBound : Obligations.FaultOfAnUnboundPidAnswersNotBound := by
  unfold Obligations.FaultOfAnUnboundPidAnswersNotBound
  intro s pid va hr hp hu
  rw [exec_fault, execFault, whenReady_ready hr, if_neg (by omega), if_pos hu, failWith]

/-! ### The host's access to PHYS -/

/-- The bounds check refuses what lies beyond the arena (R262). -/
theorem not_inArena (ha : 4 * s.nframes ≤ a) : ¬ inArena s a = true := by
  simpa [inArena] using ha

/-- PRD beyond the arena (R262). -/
theorem execPrd_outside (hr : s.ready = true) (ha : 4 * s.nframes ≤ a) :
    execPrd a s = .next (s.respond .badAddr 0#4 0#8) := by
  rw [execPrd, whenReady_ready hr, if_neg (not_inArena ha), failWith]

/-- PWR beyond the arena (R262). -/
theorem execPwr_outside (hr : s.ready = true) (ha : 4 * s.nframes ≤ a) (v : Byte) :
    execPwr a v s = .next (s.respond .badAddr 0#4 0#8) := by
  rw [execPwr, whenReady_ready hr, if_neg (not_inArena ha), failWith]

/-- PRD answers the byte that PHYS holds at the address (R260). -/
theorem execPrd_of_read (hr : s.ready = true) (ha : a < 4 * s.nframes)
    (hb : s.phys.read a = some b) : execPrd a s = .next (s.respond .ok 0#4 b) := by
  rw [execPrd, whenReady_ready hr, if_pos (by simpa [inArena] using ha), readPhys_eq_ok hb,
    Result.answer_ok]

/-- Settles O38: the READY check, then the bounds check, then the byte, which a well-shaped state
has. -/
theorem prdAnswersTheByte : Obligations.PrdAnswersTheByte := by
  unfold Obligations.PrdAnswersTheByte
  refine fun s addr hs => ⟨fun hr => exec_not_ready hr trivial, fun hr ha => ?_, execPrd_outside⟩
  obtain ⟨b, hb⟩ := Option.isSome_iff_exists.1 ((hs.phys_exists addr).2 ha)
  exact ⟨b, hb, execPrd_of_read hr ha hb⟩

/-- Settles O39: inside the arena the next state is the old one with one byte of PHYS written. -/
theorem pwrWritesOneByte : Obligations.PwrWritesOneByte := by
  unfold Obligations.PwrWritesOneByte
  refine fun s addr data hs => ⟨fun hr => exec_not_ready hr trivial, fun hr ha => ?_,
    fun hr ha => execPwr_outside hr ha data⟩
  exact ⟨_, execPwr_inside hs data hr ha, rfl,
    Memory.read_write_same ((hs.phys_exists addr).2 ha) data,
    fun a hne => Memory.read_write_other s.phys hne data, rfl⟩

/-- Settles O40, by the bounds check of each command. -/
theorem arenaAccessIsBoundsChecked : Obligations.ArenaAccessIsBoundsChecked := by
  unfold Obligations.ArenaAccessIsBoundsChecked
  exact fun _ _ data hr ha => ⟨execPrd_outside hr ha, execPwr_outside hr ha data⟩

/-! ### The step -/

/-- A machine with no fault raised receives the next word of the host's stream (R20). -/
theorem step_of_commands (hf : s.faulted = none) (hc : s.commands = w :: rest) :
    step s = receive w (s.issue rest) := by
  rcases step_eq s with ⟨r, hr, -⟩ | ⟨-, hn, -⟩ | ⟨x, tail, -, hx, hs⟩
  · rw [hf] at hr; cases hr
  · rw [hc] at hn; cases hn
  · rw [hc] at hx; cases hx; exact hs

/-- A legal word runs its command (R250). -/
theorem receive_of_decode {i : Instr} (hd : decode w = .ok i) : receive w s = exec i s := by
  rcases receive_eq w s with ⟨j, hj, hx⟩ | ⟨r, hr, -⟩
  · rw [hd] at hj; cases hj; exact hx
  · rw [hd] at hr; cases hr

/-- A machine with no fault raised runs the command of a legal word (R250). -/
theorem step_of_decode {i : Instr} (hf : s.faulted = none) (hc : s.commands = w :: rest)
    (hd : decode w = .ok i) : step s = exec i (s.issue rest) :=
  (step_of_commands hf hc).trans (receive_of_decode hd)

/-- A command word numbered as the table does is that word (R99). -/
theorem tableWord_toNat (w : CommandWord) : tableWord 32 w.toNat = w := by
  rw [tableWord, Nat.mod_eq_of_lt w.isLt, BitVec.ofNat_toNat, BitVec.setWidth_eq]

/-- A command word placed in front is the next one of the stream. -/
theorem State.withFetchWord_commands (s : State) (w : CommandWord) :
    (s.withFetchWord 32 w.toNat).commands = w :: s.commands := by
  rw [State.withFetchWord, State.withNextCommand_commands, tableWord_toNat]

/-- Settles O41: the step receives the next word; a well-formed command's encoding decodes to it. -/
theorem stepRunsTheDecodedCommand : Obligations.StepRunsTheDecodedCommand := by
  unfold Obligations.StepRunsTheDecodedCommand
  refine ⟨fun _ _ _ _ hf hc hd => step_of_decode hf hc hd, fun s i hf hi => ?_⟩
  exact step_of_decode (s := s.withFetchWord 32 (encode i).toNat) hf
    (s.withFetchWord_commands (encode i)) (decodeOfEncodeIsTheCommand i hi)

end Sys2Proof.Machine
end

section
/-!
Proofs about the taxonomy of failures (60_exceptions.md): no command of a running machine raises a
model fault (R296), and a pid beyond the table is refused first (R283).
-/

namespace Sys2Proof.Machine

variable {s t : State}

/-! ### A running machine keeps running -/

/-- An answer changes neither the shape nor FAULTED (R280). -/
theorem State.Running.respond (h : s.Running) (st : Status) (info : BitVec 4) (b : Byte) :
    (s.respond st info b).Running := by
  obtain ⟨hf, hs⟩ := h
  exact ⟨hf, hs.respond st info b⟩

/-- Issuing a word changes neither the shape nor FAULTED (R20). -/
theorem State.Running.issue (h : s.Running) (rest : List CommandWord) :
    (s.issue rest).Running := by
  obtain ⟨hf, hs⟩ := h
  exact ⟨hf, hs.issue rest⟩

/-- What continues a state in which no fault was raised is running. -/
theorem State.Continues.running (h : s.Continues t) (hf : s.faulted = none) : t.Running := by
  obtain ⟨-, -, -, hkeep, -, -⟩ := h.control
  exact ⟨hkeep.trans hf, h.shaped⟩

/-- INIT answers from every running machine, whether it accepts the sizes or not (R252, R253). -/
theorem State.Running.execInit (h : s.Running) (psize ssize : Nat) :
    ∃ t, execInit psize ssize s = .next t ∧ t.Running := by
  rcases execInit_cases psize ssize s with ⟨hp, hn, he⟩ | he
  · obtain ⟨hf, hs⟩ := h
    have hinit : (s.initialise (psize / 4) (ssize / 4)).Running :=
      ⟨hf, initialise_wellShaped hs.npid_pos hs.npid_le hp hn⟩
    exact ⟨_, he, hinit.respond _ _ _⟩
  · exact ⟨_, he, h.respond _ _ _⟩

/-- Every command of a running machine answers, and the machine is running afterwards (R296). -/
theorem State.Running.exec (h : s.Running) (i : Instr) :
    ∃ t, exec i s = .next t ∧ t.Running := by
  by_cases hi : NotInit i
  · obtain ⟨hf, hs⟩ := h
    obtain ⟨t, he, hc⟩ := exec_continues hs hi
    exact ⟨t, he, hc.running hf⟩
  · cases i with
    | init psize ssize => exact h.execInit psize ssize
    | bind | fault | prd | pwr => exact (hi trivial).elim

/-- Settles O45, by the cases of a step: no fault is there to stop it, an idle step stays, an illegal
word is refused, and a legal one runs a command, which answers. -/
theorem stepNeverFaults : Obligations.StepNeverFaults := by
  unfold Obligations.StepNeverFaults
  intro s h
  rcases step_eq s with ⟨r, hr, -⟩ | ⟨-, -, hs⟩ | ⟨w, rest, -, -, hs⟩
  · obtain ⟨hf, -⟩ := h
    rw [hf] at hr; cases hr
  · exact ⟨s, hs, h⟩
  · rcases receive_eq w (s.issue rest) with ⟨i, -, hx⟩ | ⟨r, -, hx⟩
    · rw [hs, hx]
      exact (h.issue rest).exec i
    · exact ⟨_, hs.trans hx, (h.issue rest).respond _ _ _⟩

/-! ### A pid beyond the table -/

/-- Settles O20: each command checks the pid before it reads the binding (R255, R283). -/
theorem pidsBeyondTheTableAnswerBadPid : Obligations.PidsBeyondTheTableAnswerBadPid := by
  unfold Obligations.PidsBeyondTheTableAnswerBadPid
  intro s pid va hr hp
  constructor
  · rw [exec_bind, execBind, whenReady_ready hr, if_pos hp, failWith]
  · rw [exec_fault, execFault, whenReady_ready hr, if_pos hp, failWith]

end Sys2Proof.Machine
end

section
/-!
Proofs about power-on (70_reset_and_hazards.md): the model's reset state holds what an INIT without
frames and without slots would leave, but for READY, so the shape and the invariants are INIT's own.
-/

namespace Sys2Proof.Machine

variable {s : State}

/-- READY is no part of the shape. -/
theorem State.WellShaped.withReady (h : s.WellShaped) (r : Bool) :
    { s with ready := r }.WellShaped :=
  { h with }

/-- READY is no part of the invariants. -/
theorem State.Ownership.withReady (h : s.Ownership) (r : Bool) :
    { s with ready := r }.Ownership :=
  { h with }

/-- The model's power-on values are those of an INIT with sizes 0, READY apart (R36; log entries 3
to 5). -/
theorem reset_eq_initialise :
    State.reset = { State.reset.initialise 0 0 with ready := false } := rfl

/-- Power-on is well shaped: the default NPID is in its range (R8), and the arenas are empty. -/
theorem reset_wellShaped : State.reset.WellShaped := by
  have hlow : 1 ≤ State.reset.npid := by decide
  have hhigh : State.reset.npid ≤ 256 := by decide
  rw [reset_eq_initialise]
  exact (initialise_wellShaped hlow hhigh (Nat.zero_le _) (Nat.zero_le _)).withReady false

/-- At power-on nothing is owned (R35). -/
theorem reset_ownership : State.reset.Ownership := by
  rw [reset_eq_initialise]
  exact (initialise_ownership State.reset 0 0).withReady false

/-- Settles O18: READY and FAULTED are the values of the reset state, and the invariants are those
of an empty INIT. -/
theorem powerOnIsNotReadyAndWellShaped : Obligations.PowerOnIsNotReadyAndWellShaped := by
  unfold Obligations.PowerOnIsNotReadyAndWellShaped
  exact ⟨rfl, rfl, reset_wellShaped, reset_ownership⟩

end Sys2Proof.Machine
end
